-- ==== Sys2Proof/Word.lean ====
section
/-! DEFINITION. The word types of the block: a request word of 32 bits (R80) and a byte of 8 bits (R11). Every
field of this hardware is unsigned (R11): no signed arithmetic stands anywhere in the model. -/

namespace Sys2Proof

/-- A byte, `b[7:0]` (R11). -/
abbrev Byte := BitVec 8

/-- A request word, `w[31:0]` (R80): the block's instruction. -/
abbrev Word := BitVec 32

end Sys2Proof
end

