-- ==== Sys2Proof/Syntax.lean ====
section
/-! DEFINITION. The requests: one constructor of `Instr` for each row of spec/opcode_table.json (R83), with the operands of
R81 and R82 as bit vectors of their fields' widths, so that no operand that does not fit can be written; and the
assembly lines of R87 and R88, whose operands are numbers that may not fit. -/

namespace Sys2Proof

/-- A request. `A` and `B` operands are 8-bit unsigned numbers, an `E` operand is a bit (R81, R82). -/
inductive Instr where
  /-- R110. -/
  | clear
  /-- R111: x = A, y = B, on = E. -/
  | setPixel (x y : BitVec 8) (on : Bool)
  /-- R112: x = A, y = B. -/
  | getPixel (x y : BitVec 8)
  /-- R113: page = B, col = A (in the source's argument order). -/
  | readPageRow (page col : BitVec 8)
  /-- R130: x0 = A, y0 = B. -/
  | setCursor (x0 y0 : BitVec 8)
  /-- R132: code = A. -/
  | renderChar (code : BitVec 8)
  /-- R200. -/
  | update
  /-- R152: col = A, on = E. -/
  | iconWrite (col : BitVec 8) (on : Bool)
  /-- R153: level = A. -/
  | signal (level : BitVec 8)
  /-- R154: state = E. -/
  | bell (state : Bool)
  /-- R155: state = E. -/
  | message (state : Bool)
  /-- R156: state = A. -/
  | network (state : BitVec 8)
  /-- R157: level = A. -/
  | battery (level : BitVec 8)
  /-- R183: digit = A, position = B. -/
  | renderDigit (digit position : BitVec 8)
  /-- R158: segment_1 = A, segment_2 = B, separator = E. -/
  | clock (segment1 segment2 : BitVec 8) (separator : Bool)
  /-- The reserved opcode 0xF (R85, R221): `bits` are `w[27:0]`, which are ignored. -/
  | reserved (bits : BitVec 28)
deriving DecidableEq, Repr

/-- An assembly line: a request (R87) or a pseudo-instruction (R88), its operands in the order R87 gives them, each a
number that the assembler has yet to check against its field. `text` is a string's bytes. -/
inductive AsmLine where
  | clear
  | setPixel (x y on : Nat)
  | getPixel (x y : Nat)
  | readPageRow (page col : Nat)
  | setCursor (x0 y0 : Nat)
  | renderChar (code : Nat)
  | update
  | iconWrite (col on : Nat)
  | signal (level : Nat)
  | bell (state : Nat)
  | message (state : Nat)
  | network (state : Nat)
  | battery (level : Nat)
  | renderDigit (digit position : Nat)
  | clock (segment1 segment2 separator : Nat)
  /-- `RENDER x0, y0, "s0 ... sn-1"` (R88). -/
  | render (x0 y0 : Nat) (text : List Nat)
  /-- `PIXEL_ON x, y` (R88). -/
  | pixelOn (x y : Nat)
  /-- `PIXEL_OFF x, y` (R88). -/
  | pixelOff (x y : Nat)
  /-- `ICON_ON col` (R88). -/
  | iconOn (col : Nat)
  /-- `ICON_OFF col` (R88). -/
  | iconOff (col : Nat)
  /-- `FRAME` (R88). -/
  | frame
deriving DecidableEq, Repr

end Sys2Proof
end

