-- ==== Sys2Proof/WellFormed.lean ====
section
/-! DEFINITION. Well-formedness. Every term of `Instr` is well formed by its type: each operand is a bit vector of its
field's width (R81), so the only check left is the assembler's, on operands that are numbers (R87): an operand that
does not fit its field is an error, never truncated. -/

namespace Sys2Proof

/-- The operand fits an `A` or `B` field: at most 255 (R87). -/
abbrev fitsByte (n : Nat) : Bool := n ≤ 255

/-- The operand fits an `E` field: at most 1 (R87). -/
abbrev fitsBit (n : Nat) : Bool := n ≤ 1

/-- Every operand of the line fits its field (R87). A `RENDER` line's text is one byte for each character (R88). -/
def AsmLine.wellFormed : AsmLine → Bool
  | .clear => true
  | .setPixel x y on => fitsByte x && fitsByte y && fitsBit on
  | .getPixel x y => fitsByte x && fitsByte y
  | .readPageRow page col => fitsByte page && fitsByte col
  | .setCursor x0 y0 => fitsByte x0 && fitsByte y0
  | .renderChar code => fitsByte code
  | .update => true
  | .iconWrite col on => fitsByte col && fitsBit on
  | .signal level => fitsByte level
  | .bell state => fitsBit state
  | .message state => fitsBit state
  | .network state => fitsByte state
  | .battery level => fitsByte level
  | .renderDigit digit position => fitsByte digit && fitsByte position
  | .clock segment1 segment2 separator => fitsByte segment1 && fitsByte segment2 && fitsBit separator
  | .render x0 y0 text => fitsByte x0 && fitsByte y0 && text.all fitsByte
  | .pixelOn x y => fitsByte x && fitsByte y
  | .pixelOff x y => fitsByte x && fitsByte y
  | .iconOn col => fitsByte col
  | .iconOff col => fitsByte col
  | .frame => true

end Sys2Proof
end

