-- ==== Sys2Proof/Decode.lean ====
section
/-! DEFINITION. Decoding a request word (R80 to R86), total on all words and rejecting by name; after it the encoder, written
from the same tables of 30_encoding.md; and the assembler of R87 and R88. -/

namespace Sys2Proof

/-- Why a word stands for no request. Opcode 0xF is NOT here: it is a row of the opcode table and decodes to
`Instr.reserved`, whose meaning raises `ILLEGAL_OPCODE` (R84 case 1, R221). -/
inductive DecodeReject where
  /-- A reserved-zero bit of the opcode's format is 1 (R84 case 2, R222). -/
  | reservedBits
deriving DecidableEq, Repr

/-- The opcode, `w[31:28]` (R80). -/
def opcodeOf (w : Word) : BitVec 4 := w.extractLsb' 28 4

/-- Operand `A = w[7:0]` (R81). -/
def fieldA (w : Word) : BitVec 8 := w.extractLsb' 0 8

/-- Operand `B = w[15:8]` (R81). -/
def fieldB (w : Word) : BitVec 8 := w.extractLsb' 8 8

/-- Operand `E = w[16]` (R81). -/
def fieldE (w : Word) : Bool := w.getLsbD 16

/-- The reserved-bit check of R84: `(w & mask) = match`, else the word is rejected. -/
def checked (w mask mtch : Word) (i : Instr) : Except DecodeReject Instr :=
  if w &&& mask = mtch then .ok i else .error .reservedBits

/-- `Decode(w)` (R84): the opcode first, then the row's mask and match of R83, then the operands. The last arm is
opcode 0xF, which is taken before any reserved-bit check (R225). -/
def decode (w : Word) : Except DecodeReject Instr :=
  match (opcodeOf w).toNat with
  | 0x0 => checked w 0xFFFFFFFF 0x00000000 .clear
  | 0x1 => checked w 0xFFFE0000 0x10000000 (.setPixel (fieldA w) (fieldB w) (fieldE w))
  | 0x2 => checked w 0xFFFF0000 0x20000000 (.getPixel (fieldA w) (fieldB w))
  | 0x3 => checked w 0xFFFF0000 0x30000000 (.readPageRow (fieldB w) (fieldA w))
  | 0x4 => checked w 0xFFFF0000 0x40000000 (.setCursor (fieldA w) (fieldB w))
  | 0x5 => checked w 0xFFFFFF00 0x50000000 (.renderChar (fieldA w))
  | 0x6 => checked w 0xFFFFFFFF 0x60000000 .update
  | 0x7 => checked w 0xFFFEFF00 0x70000000 (.iconWrite (fieldA w) (fieldE w))
  | 0x8 => checked w 0xFFFFFF00 0x80000000 (.signal (fieldA w))
  | 0x9 => checked w 0xFFFEFFFF 0x90000000 (.bell (fieldE w))
  | 0xA => checked w 0xFFFEFFFF 0xA0000000 (.message (fieldE w))
  | 0xB => checked w 0xFFFFFF00 0xB0000000 (.network (fieldA w))
  | 0xC => checked w 0xFFFFFF00 0xC0000000 (.battery (fieldA w))
  | 0xD => checked w 0xFFFF0000 0xD0000000 (.renderDigit (fieldA w) (fieldB w))
  | 0xE => checked w 0xFFFE0000 0xE0000000 (.clock (fieldA w) (fieldB w) (fieldE w))
  | _ => .ok (.reserved (w.extractLsb' 0 28))

/-- The word that the table's low `nbits` bits stand for: the bits above them are 0 (R80: one 32-bit word). -/
def tableWord (nbits w : Nat) : Word := BitVec.ofNat 32 (w % 2 ^ nbits)

/-- The request that `decode` reads from a table row's word, none where it rejects the word. A request is one word of
32 bits presented whole (R80, R86), so a row of more bits stands for no request. -/
def decodeTableWord (nbits w : Nat) : Option Instr :=
  if nbits ≤ 32 then
    match decode (tableWord nbits w) with
    | .ok i => some i
    | .error _ => none
  else none

/-! The encoder. -/

/-- A request word from its fields: opcode, reserved-zero bits 27..17, `E`, `B`, `A` (R81). -/
def assembleFields (op : BitVec 4) (e : Bool) (b a : BitVec 8) : Word :=
  op ++ (0#11 ++ (BitVec.ofBool e ++ (b ++ a)))

/-- The word of a request (R81, R83); the reserved-zero bits of its format are 0 (R87). -/
def encode : Instr → Word
  | .clear => assembleFields 0x0 false 0 0
  | .setPixel x y on => assembleFields 0x1 on y x
  | .getPixel x y => assembleFields 0x2 false y x
  | .readPageRow page col => assembleFields 0x3 false page col
  | .setCursor x0 y0 => assembleFields 0x4 false y0 x0
  | .renderChar code => assembleFields 0x5 false 0 code
  | .update => assembleFields 0x6 false 0 0
  | .iconWrite col on => assembleFields 0x7 on 0 col
  | .signal level => assembleFields 0x8 false 0 level
  | .bell state => assembleFields 0x9 state 0 0
  | .message state => assembleFields 0xA state 0 0
  | .network state => assembleFields 0xB false 0 state
  | .battery level => assembleFields 0xC false 0 level
  | .renderDigit digit position => assembleFields 0xD false position digit
  | .clock segment1 segment2 separator => assembleFields 0xE separator segment2 segment1
  | .reserved bits => 0xF#4 ++ bits

/-- A format's reserved-zero mask within `w[27:0]` together with the opcode's bits: the "mask" column of R83. -/
def rowMask : Instr → Word
  | .clear => 0xFFFFFFFF
  | .setPixel _ _ _ => 0xFFFE0000
  | .getPixel _ _ => 0xFFFF0000
  | .readPageRow _ _ => 0xFFFF0000
  | .setCursor _ _ => 0xFFFF0000
  | .renderChar _ => 0xFFFFFF00
  | .update => 0xFFFFFFFF
  | .iconWrite _ _ => 0xFFFEFF00
  | .signal _ => 0xFFFFFF00
  | .bell _ => 0xFFFEFFFF
  | .message _ => 0xFFFEFFFF
  | .network _ => 0xFFFFFF00
  | .battery _ => 0xFFFFFF00
  | .renderDigit _ _ => 0xFFFF0000
  | .clock _ _ _ => 0xFFFE0000
  | .reserved _ => 0xF0000000

/-- The "match" column of R83: the row's word with every operand field 0. -/
def rowMatch : Instr → Word
  | .clear => 0x00000000
  | .setPixel _ _ _ => 0x10000000
  | .getPixel _ _ => 0x20000000
  | .readPageRow _ _ => 0x30000000
  | .setCursor _ _ => 0x40000000
  | .renderChar _ => 0x50000000
  | .update => 0x60000000
  | .iconWrite _ _ => 0x70000000
  | .signal _ => 0x80000000
  | .bell _ => 0x90000000
  | .message _ => 0xA0000000
  | .network _ => 0xB0000000
  | .battery _ => 0xC0000000
  | .renderDigit _ _ => 0xD0000000
  | .clock _ _ _ => 0xE0000000
  | .reserved _ => 0xF0000000

/-! The assembler. -/

/-- The requests a line stands for: itself, or its expansion (R88). The operands of a well-formed line fit their
fields, so `BitVec.ofNat` drops nothing. -/
def AsmLine.expand : AsmLine → List Instr
  | .clear => [.clear]
  | .setPixel x y on => [.setPixel (.ofNat 8 x) (.ofNat 8 y) (on == 1)]
  | .getPixel x y => [.getPixel (.ofNat 8 x) (.ofNat 8 y)]
  | .readPageRow page col => [.readPageRow (.ofNat 8 page) (.ofNat 8 col)]
  | .setCursor x0 y0 => [.setCursor (.ofNat 8 x0) (.ofNat 8 y0)]
  | .renderChar code => [.renderChar (.ofNat 8 code)]
  | .update => [.update]
  | .iconWrite col on => [.iconWrite (.ofNat 8 col) (on == 1)]
  | .signal level => [.signal (.ofNat 8 level)]
  | .bell state => [.bell (state == 1)]
  | .message state => [.message (state == 1)]
  | .network state => [.network (.ofNat 8 state)]
  | .battery level => [.battery (.ofNat 8 level)]
  | .renderDigit digit position => [.renderDigit (.ofNat 8 digit) (.ofNat 8 position)]
  | .clock segment1 segment2 separator =>
      [.clock (.ofNat 8 segment1) (.ofNat 8 segment2) (separator == 1)]
  | .render x0 y0 text =>
      .setCursor (.ofNat 8 x0) (.ofNat 8 y0) :: text.map fun c => .renderChar (.ofNat 8 c)
  | .pixelOn x y => [.setPixel (.ofNat 8 x) (.ofNat 8 y) true]
  | .pixelOff x y => [.setPixel (.ofNat 8 x) (.ofNat 8 y) false]
  | .iconOn col => [.iconWrite (.ofNat 8 col) true]
  | .iconOff col => [.iconWrite (.ofNat 8 col) false]
  | .frame => [.clear]

/-- The words a line assembles to; none is the assembler error of R87 (an operand that does not fit). -/
def assemble (l : AsmLine) : Option (List Word) :=
  if l.wellFormed then some (l.expand.map encode) else none

/-! Reading the text of a line (R87). A quote is written by its code, 39, and a double quote by 34. -/

/-- The value of a digit of a number in the given base, none if it is no such digit. -/
def digitValue (base : Nat) (c : Char) : Option Nat :=
  let n := c.toNat
  let v := if 48 ≤ n ∧ n ≤ 57 then n - 48
    else if 65 ≤ n ∧ n ≤ 70 then n - 55
    else if 97 ≤ n ∧ n ≤ 102 then n - 87
    else base
  if v < base then some v else none

/-- The number a run of digits stands for, continuing from `acc`. -/
def readDigits (base : Nat) : Nat → List Char → Option Nat
  | acc, [] => some acc
  | acc, c :: cs =>
    match digitValue base c with
    | some v => readDigits base (acc * base + v) cs
    | none => none

/-- Drop the blanks at both ends. -/
def trimBlanks (cs : List Char) : List Char :=
  let isBlank : Char → Bool := fun c => c.toNat == 32 || c.toNat == 9
  ((cs.dropWhile isBlank).reverse.dropWhile isBlank).reverse

/-- One operand (R87): `'c'` is its character's ASCII code, `0x` begins a hexadecimal number, anything else is a
decimal number. -/
def readOperand (cs : List Char) : Option Nat :=
  match trimBlanks cs with
  | [] => none
  | [c] => digitValue 10 c
  | [p, c, q] =>
    if p.toNat = 39 ∧ q.toNat = 39 then (if c.toNat ≤ 127 then some c.toNat else none)
    else if p = '0' ∧ c = 'x' then digitValue 16 q
    else readDigits 10 0 [p, c, q]
  | '0' :: 'x' :: d :: ds => readDigits 16 0 (d :: ds)
  | ds => readDigits 10 0 ds

/-- Split an operand text at its commas. The first argument is 1 right after an opening quote, 2 after the quoted
character, and 0 elsewhere, so that a quoted comma does not separate. -/
def splitOperands : Nat → List Char → List (List Char)
  | _, [] => [[]]
  | 0, c :: cs =>
    if c = ',' then [] :: splitOperands 0 cs
    else match splitOperands (if c.toNat = 39 then 1 else 0) cs with
      | [] => [[c]]
      | o :: os => (c :: o) :: os
  | n + 1, c :: cs =>
    match splitOperands (if n = 0 then 2 else 0) cs with
    | [] => [[c]]
    | o :: os => (c :: o) :: os

/-- All operands of a line, none if one of them cannot be read. -/
def readOperands (cs : List Char) : Option (List Nat) :=
  if trimBlanks cs = [] then some [] else (splitOperands 0 cs).mapM readOperand

/-- The codes a string's text stands for: one for each character, a backslash before `n` standing for code 10 as in the
spec's program P2 (log entry 6). -/
def stringCodes : List Char → List Nat
  | [] => []
  | [c] => [c.toNat]
  | c :: d :: cs =>
    if c.toNat = 92 ∧ d.toNat = 110 then 10 :: stringCodes cs else c.toNat :: stringCodes (d :: cs)

/-- The operands of a `RENDER` line: two numbers, then a string between double quotes, one byte for each character
(R88). -/
def readRender (cs : List Char) : Option AsmLine :=
  let isComma : Char → Bool := fun c => c == ','
  let rest := (cs.dropWhile (!isComma ·)).drop 1
  let text := trimBlanks ((rest.dropWhile (!isComma ·)).drop 1)
  match readOperand (cs.takeWhile (!isComma ·)), readOperand (rest.takeWhile (!isComma ·)), text with
  | some x0, some y0, q :: t =>
    if q.toNat = 34 ∧ t.getLast?.map Char.toNat = some 34 then
      some (.render x0 y0 (stringCodes t.dropLast))
    else none
  | _, _, _ => none

/-- Give a mnemonic its operands, in the order of R87; none if their number is wrong or the mnemonic is unknown. -/
def lineOf (mnemonic : List Char) (ops : List Nat) : Option AsmLine :=
  match String.ofList mnemonic, ops with
  | "CLEAR", [] => some .clear
  | "SET_PIXEL", [x, y, on] => some (.setPixel x y on)
  | "GET_PIXEL", [x, y] => some (.getPixel x y)
  | "READ_PAGE_ROW", [page, col] => some (.readPageRow page col)
  | "SET_CURSOR", [x0, y0] => some (.setCursor x0 y0)
  | "RENDER_CHAR", [code] => some (.renderChar code)
  | "UPDATE", [] => some .update
  | "ICON_WRITE", [col, on] => some (.iconWrite col on)
  | "SIGNAL", [level] => some (.signal level)
  | "BELL", [state] => some (.bell state)
  | "MESSAGE", [state] => some (.message state)
  | "NETWORK", [state] => some (.network state)
  | "BATTERY", [level] => some (.battery level)
  | "RENDER_DIGIT", [digit, position] => some (.renderDigit digit position)
  | "CLOCK", [segment1, segment2, separator] => some (.clock segment1 segment2 separator)
  | "PIXEL_ON", [x, y] => some (.pixelOn x y)
  | "PIXEL_OFF", [x, y] => some (.pixelOff x y)
  | "ICON_ON", [col] => some (.iconOn col)
  | "ICON_OFF", [col] => some (.iconOff col)
  | "FRAME", [] => some .frame
  | _, _ => none

/-- One line of assembly text (R87): the mnemonic, then its operands separated by commas. -/
def parseLine (text : List Char) : Option AsmLine :=
  let isBlank : Char → Bool := fun c => c.toNat == 32 || c.toNat == 9
  let line := trimBlanks text
  let mnemonic := line.takeWhile (!isBlank ·)
  let rest := line.dropWhile (!isBlank ·)
  if String.ofList mnemonic = "RENDER" then readRender rest
  else match readOperands rest with
    | some ops => lineOf mnemonic ops
    | none => none

end Sys2Proof
end

