-- ==== Sys2Proof/Config.lean ====
section
/-! DEFINITION. What is fixed for the machine: the constants of R7 and R8, and the implementation parameters of R9,
which the spec leaves open and this model never picks. -/

namespace Sys2Proof
namespace Config

/-- `WIDTH`: columns of the framebuffer (R7). -/
@[simp] abbrev WIDTH : Nat := 132
/-- `HEIGHT`: rows of the framebuffer (R7). -/
@[simp] abbrev HEIGHT : Nat := 64
/-- `PAGE_H`: pixel rows of one page (R7). -/
@[simp] abbrev PAGE_H : Nat := 8
/-- `PAGES = HEIGHT / 8` (R7). -/
@[simp] abbrev PAGES : Nat := 8
/-- `FB_BYTES = PAGES * WIDTH` (R7). -/
@[simp] abbrev FB_BYTES : Nat := 1056
/-- `FONT_W`: glyph columns (R8). -/
@[simp] abbrev FONT_W : Nat := 5
/-- `FONT_H`: glyph rows (R8). -/
@[simp] abbrev FONT_H : Nat := 8
/-- `GLYPH_FIRST`: the first code that has a glyph (R8). -/
@[simp] abbrev GLYPH_FIRST : Nat := 32
/-- `GLYPH_LAST`: the last code that has a glyph; 127 is treated as printable (R8, conflict C2). -/
@[simp] abbrev GLYPH_LAST : Nat := 127
/-- `GLYPH_COUNT = GLYPH_LAST - GLYPH_FIRST + 1` (R8). -/
@[simp] abbrev GLYPH_COUNT : Nat := 96
/-- `GLYPH_ROM_BYTES = GLYPH_COUNT * FONT_W` (R8). -/
@[simp] abbrev GLYPH_ROM_BYTES : Nat := 480
/-- `SPACE`: the space character's code (R8). -/
@[simp] abbrev SPACE : Nat := 32
/-- `SIGNAL_BARS` (R8). -/
@[simp] abbrev SIGNAL_BARS : Nat := 5
/-- `SIGNAL_MAX` (R8). -/
@[simp] abbrev SIGNAL_MAX : Nat := 5
/-- `NET_MAX` (R8). -/
@[simp] abbrev NET_MAX : Nat := 3
/-- `BATT_SEGS` (R8). -/
@[simp] abbrev BATT_SEGS : Nat := 4
/-- `BATT_MAX` (R8). -/
@[simp] abbrev BATT_MAX : Nat := 3
/-- `POS_MIN` (R8). -/
@[simp] abbrev POS_MIN : Nat := 1
/-- `POS_MAX` (R8). -/
@[simp] abbrev POS_MAX : Nat := 4
/-- `SEGMENTS` (R8). -/
@[simp] abbrev SEGMENTS : Nat := 7
/-- `ICON_COL_MAX`: the last column of the icon page (R8). -/
@[simp] abbrev ICON_COL_MAX : Nat := 131

/-- `COL_ORDER` (R9): which of the two column commands goes out first. -/
inductive ColOrder where
  | loFirst
  | hiFirst
deriving DecidableEq, Repr, Inhabited

/-- The seven canonical segment identifiers A..G, numbered 0..6 in that order (R180). -/
inductive Segment where
  | A | B | C | D | E | F | G
deriving DecidableEq, Repr, Inhabited

/-- The four digit positions of the clock (R61): `POS_OFF` has an entry for these and for no other number. -/
inductive Position where
  | p1 | p2 | p3 | p4
deriving DecidableEq, Repr, Inhabited

/-- The implementation parameters of R9 (the read-only configuration of R33). A field's type carries the range the
constraint column of R9 gives it: `signalBase : Fin 128` says `SIGNAL_BASE + 4 <= 131`, `batteryBase : Fin 129` says
`BATTERY_BASE + 3 <= 131`, and an entry of `segAddr` below 110 says `SEG_ADDR[s] + 22 <= 131`. The other
constraints are `Params.wf`. -/
structure Params where
  /-- `GLYPH_ROM`: 480 bytes, index `(c - 32) * 5 + i` (R57). -/
  glyphRom : Vector Byte 480
  /-- `SIGNAL_BASE` (R59). -/
  signalBase : Fin 128
  /-- `BELL_ADDR` (R59). -/
  bellAddr : Fin 132
  /-- `MESSAGE_ADDR` (R59). -/
  messageAddr : Fin 132
  /-- `NET_RX_ADDR`, the receive icon (R59). -/
  netRxAddr : Fin 132
  /-- `NET_TX_ADDR`, the send icon (R59). -/
  netTxAddr : Fin 132
  /-- `BATTERY_BASE` (R59). -/
  batteryBase : Fin 129
  /-- `SEP_ADDR`, the separator icon (R59). -/
  sepAddr : Fin 132
  /-- `SEG_ADDR[A..G]` (R59). -/
  segAddr : Vector (Fin 110) 7
  /-- `SEG_ON[0..9]`: bit `s` is segment number `s` (R60, R180). -/
  segOn : Vector (BitVec 7) 10
  /-- `SEG_OFF[0..9]` (R60). -/
  segOff : Vector (BitVec 7) 10
  /-- `ICON_PAGE`: a page number 0..15 (R63). -/
  iconPage : Fin 16
  /-- `ICON_ON_BYTE` (R150). -/
  iconOnByte : Byte
  /-- `ICON_OFF_BYTE` (R150). -/
  iconOffByte : Byte
  /-- `PAGE_CMD(p)`, one byte for each page number (R62). -/
  pageCmd : Vector Byte 16
  /-- `COL_HI_CMD(c)`, one byte for each column (R62). -/
  colHiCmd : Vector Byte 132
  /-- `COL_LO_CMD(c)`, one byte for each column (R62). -/
  colLoCmd : Vector Byte 132
  /-- `COL_ORDER` (R150). -/
  colOrder : ColOrder
deriving DecidableEq, Repr

/-- The constraints of R9 that no field's type carries: the segment sets of a digit are disjoint, the icon page lies
outside the framebuffer's pages, the two icon bytes differ, and `PAGE_CMD` is injective. -/
abbrev Params.wf (c : Params) : Prop :=
  (∀ d : Fin 10, c.segOn[d] &&& c.segOff[d] = 0#7) ∧
  PAGES ≤ c.iconPage.val ∧
  c.iconOnByte ≠ c.iconOffByte ∧
  (∀ p q : Fin 16, c.pageCmd[p] = c.pageCmd[q] → p = q)

/-- Parameters that meet R9's constraints: the defaults of R9 with the fixtures F-CMD, F-ICON and F-SEG of
95_test_vectors.md and the glyph fixture T1 (every column of a code but the space is 0xFF). It is a FIXTURE: the tests
run under it, and it shows that the constraints can be met. It is no claim about the block's tables. -/
def fixture : Params where
  glyphRom := Vector.ofFn fun k => if k.val < 5 then 0x00#8 else 0xFF#8
  signalBase := 0
  bellAddr := 10
  messageAddr := 11
  netRxAddr := 12
  netTxAddr := 13
  batteryBase := 20
  sepAddr := 44
  segAddr := #v[30, 31, 32, 33, 34, 35, 36]
  segOn := #v[0x3F, 0x06, 0x5B, 0x4F, 0x66, 0x6D, 0x7D, 0x07, 0x7F, 0x6F]
  segOff := #v[0x40, 0x79, 0x24, 0x30, 0x19, 0x12, 0x02, 0x78, 0x00, 0x10]
  iconPage := 8
  iconOnByte := 0x01
  iconOffByte := 0x00
  pageCmd := Vector.ofFn fun p => 0xB0#8 ||| BitVec.ofNat 8 p.val
  colHiCmd := Vector.ofFn fun c => 0x10#8 ||| (BitVec.ofNat 8 c.val >>> 4)
  colLoCmd := Vector.ofFn fun c => BitVec.ofNat 8 c.val &&& 0x0F#8
  colOrder := .loFirst

/-- The fixture meets the constraints of R9. -/
theorem fixture_wf : fixture.wf := by decide

/-- A value of which nothing is known but its type: it has no body, so no proof can see it. -/
opaque unspecified (α : Type) [Inhabited α] : α

/-- The block's own parameters: SOME values that meet the constraints of R9, and nothing more is known of them (R9:
the source names each quantity but gives no value). The fixture only shows Lean that such values exist. -/
def installed : { c : Params // c.wf } :=
  @unspecified { c : Params // c.wf } ⟨⟨fixture, fixture_wf⟩⟩

end Config
end Sys2Proof
end

