-- ==== Sys2Proof/Machine/State.lean ====
section
/-! DEFINITION. The state of the block (10_state.md), of its transport log (R32), and of the agents at its ports: the host
that presents requests (R21, R233) and the pins at the coming clock edges (R232). Plain data. -/

namespace Sys2Proof
namespace Machine

/-- The framebuffer `FB` (R22): its bytes as (address, byte) pairs in the canonical form `Memory.wf`. -/
abbrev Memory := List Host.Cell

/-- The cause code of the first fault (R28), a closed enumeration as R29 allows. -/
inductive Cause where
  | none
  | illegalOpcode
  | reservedBits
  | digitRange
  | clockRange
deriving DecidableEq, Repr, Inhabited

/-- A transport event (R32): `send_command(b)` or `send_data(b)`. -/
inductive TxEvent where
  | cmd (b : Byte)
  | data (b : Byte)
deriving DecidableEq, Repr

/-- A response `(ok, data)` (R31). -/
structure Response where
  ok : Bool
  data : Byte
deriving DecidableEq, Repr

/-- The input pins at one rising edge of `clk` (R232). The word on `req_word` is the head of `State.requests`, and
`reqValid` says whether the host offers it at this edge. -/
structure Edge where
  rst : Bool
  reqValid : Bool
  rspReady : Bool
  txReady : Bool
deriving DecidableEq, Repr

/-- The pins of an edge at which no reset is asserted, the host offers its next request and takes a response, and the
transport adapter takes an event. -/
def Edge.ready : Edge := ⟨false, true, true, true⟩

/-- The machine's state. Fields `fb` to `rsp` are the block's architectural state (10_state.md section 9); `txlog` is the
model's event history; `cfg` is the block's read-only configuration, which no step changes; the last three are
the agents outside. -/
structure State where
  /-- `FB`, 1056 bytes (R22). -/
  fb : Memory
  /-- `CURSOR_X` (R23). -/
  cursorX : BitVec 16
  /-- `CURSOR_Y` (R24). -/
  cursorY : BitVec 8
  /-- `STATUS.BUSY` (R26). -/
  busy : Bool
  /-- `STATUS.FAULT` (R27). -/
  fault : Bool
  /-- `STATUS.CAUSE` (R28). -/
  cause : Cause
  /-- `TXQ`, the pending emission list, head first (R30). -/
  txq : List TxEvent
  /-- `RSP`, the pending response (R31); none is the spec's own "none pending". -/
  rsp : Option Response
  /-- `TXLOG`, oldest first (R32). -/
  txlog : List TxEvent
  /-- The configuration of R33: the ROMs, the icon addresses and the protocol parameters. -/
  cfg : Config.Params
  /-- The host's request list, from its index on (R21, decision D33). -/
  requests : List Word
  /-- The input pins at the coming clock edges, the next one first (the model's own field). -/
  edges : List Edge
  /-- The input pins at every edge after those of `edges` (the model's own field). -/
  steady : Edge
deriving DecidableEq, Repr

/-- Why the machine stops. -/
inductive Fault where
  /-- Raised by `clockEdge` (never by an instruction's meaning) when a fault is recorded, its response has been taken, and the
  environment holds no further edge that could assert `rst`: the block "has no enabled step except reset" (R228), which the spec
  asks a model to represent as a fault outcome. Safe: nothing can be proved of what follows. -/
  | haltedUntilReset (cause : Cause)
deriving DecidableEq, Repr

/-- Why an instruction has no meaning. -/
inductive Refusal where
  /-- Raised by an arm of `exec` whose instruction has no meaning yet; no arm does. Safe. -/
  | notModelled (mnemonic : String)
deriving DecidableEq, Repr

/-- The outcome of a meaning or of a step. -/
abbrev Result := Host.Outcome State Fault Refusal

/-- The machine right after reset (R251): FB all 0x00, the cursor at (0, 0), STATUS = 0x00, TXQ empty, no response
pending. The fields that are not the block's state are as log entries 1 to 4 say: the log is empty, the host has
no request, and every pin is ready. -/
def State.reset : State where
  fb := []
  cursorX := 0
  cursorY := 0
  busy := false
  fault := false
  cause := .none
  txq := []
  rsp := none
  txlog := []
  cfg := Config.installed.val
  requests := []
  edges := []
  steady := Edge.ready

end Machine
end Sys2Proof
end

