-- ==== Sys2Proof/Machine/Flags.lean ====
section
/-! DEFINITION. The status register (R25 to R29) and the values of the output ports (R232). The block has no other flags:
no condition codes, carry or overflow (R34). -/

namespace Sys2Proof
namespace Machine

/-- The value of `STATUS.CAUSE` (R28). -/
def causeCode : Cause → BitVec 4
  | .none => 0
  | .illegalOpcode => 1
  | .reservedBits => 2
  | .digitRange => 3
  | .clockRange => 4

/-- The 8-bit `STATUS` (R25): CAUSE in bits 7:4, bits 3:2 hard-wired 0 (R29), FAULT in bit 1, BUSY in bit 0. It is
the value of the `status` output port (R232). -/
def State.status (s : State) : BitVec 8 :=
  causeCode s.cause ++ (0#2 ++ (BitVec.ofBool s.fault ++ BitVec.ofBool s.busy))

/-- `req_ready = not BUSY and not FAULT and not rst` (R232). -/
def State.reqReady (s : State) (rst : Bool) : Bool := !s.busy && !s.fault && !rst

/-- `rsp_valid`: RSP is pending and TXQ is empty (R232); 0 while `rst = 1` (R250). -/
def State.rspValid (s : State) (rst : Bool) : Bool := s.rsp.isSome && s.txq.isEmpty && !rst

/-- `tx_valid`: TXQ is non-empty (R232); 0 while `rst = 1` (R250). -/
def State.txValid (s : State) (rst : Bool) : Bool := !s.txq.isEmpty && !rst

/-- `rsp_ok` and `rsp_data` while `rsp_valid` is 1, none while it is 0 (R232 gives them no value then). -/
def State.rspOut (s : State) (rst : Bool) : Option Response := if s.rspValid rst then s.rsp else none

/-- `tx_dc` of an event: 0 for `Cmd`, 1 for `Data` (R232). -/
def TxEvent.dc : TxEvent → Bool
  | .cmd _ => false
  | .data _ => true

/-- `tx_byte` of an event (R232). -/
def TxEvent.byte : TxEvent → Byte
  | .cmd b => b
  | .data b => b

/-- The byte of a `Data` event, none for a `Cmd` (R32). -/
def TxEvent.dataByte : TxEvent → Option Byte
  | .cmd _ => none
  | .data b => some b

/-- `tx_dc` and `tx_byte` while `tx_valid` is 1, none while it is 0 (R232 gives them no value then). -/
def State.txOut (s : State) (rst : Bool) : Option (Bool × Byte) :=
  if s.txValid rst then s.txq.head?.map fun e => (e.dc, e.byte) else none

/-- The state in which no step is enabled but reset (R228): a fault is recorded and its response has been taken. -/
def State.halted (s : State) : Bool := s.fault && !s.busy

end Machine
end Sys2Proof
end

