-- ==== Sys2Proof/Machine/Operands.lean ====
section
/-! DEFINITION. What the requests compute from their operands: addresses and bounds (R51, R52), clamps (R12), the digits
of the clock (R158), the glyph lookup and the cursor's advance (R57, R131, R133, R134), the icon tables (R59 to R61). -/

namespace Sys2Proof
namespace Machine
open Config

/-- `InB(x, y)` (R52), on coordinates of any size. -/
def inB (x y : Nat) : Bool := x < WIDTH && y < HEIGHT

/-- `FbByte(p, c)` (R50): the byte address of column `c` of page `p`. -/
def fbByte (p c : Nat) : Nat := p * WIDTH + c

/-- `FbAddr(x, y)` (R51). -/
def fbAddr (x y : Nat) : Nat := fbByte (y / PAGE_H) x

/-- `FbBit(x, y)` (R51). -/
def fbBit (_x y : Nat) : Nat := y % PAGE_H

/-- `clamp(v, lo, hi) = min(max(v, lo), hi)` (R12). -/
def clamp (v lo hi : Nat) : Nat := min (max v lo) hi

/-- `sat16(v) = min(v, 0xFFFF)` (R12), as the 16-bit register it is written to. -/
def sat16 (v : Nat) : BitVec 16 := BitVec.ofNat 16 (min v 0xFFFF)

/-- `Printable(c)` (R131). -/
def printable (c : Nat) : Bool := GLYPH_FIRST ≤ c && c ≤ GLYPH_LAST

/-- A printable code lies in 32..127 (R131). -/
theorem printable_range {c : Nat} (h : printable c = true) : 32 ≤ c ∧ c ≤ 127 := by
  simpa [printable] using h

/-- `Advance(c)` of a printable code (R133). -/
def advance (c : Nat) : Nat := if c = SPACE then FONT_W else FONT_W + 1

/-- `GlyphCol(c, i)` (R57): column `i` of the glyph of a printable code `c`. A code outside 32..127 has no ROM entry
(R58), which is why the lookup asks for the proof. -/
def glyphCol (cfg : Params) (c : Nat) (h : printable c = true) (i : Fin FONT_W) : Byte :=
  cfg.glyphRom[(c - GLYPH_FIRST) * FONT_W + i.val]'(by
    have hc := printable_range h
    have hi := i.isLt
    simp only [GLYPH_FIRST, FONT_W] at *
    omega)

/-- The position `clamp(position, POS_MIN, POS_MAX)` names (R183). -/
def clampPosition (position : Nat) : Position :=
  match clamp position POS_MIN POS_MAX with
  | 1 => .p1
  | 2 => .p2
  | 3 => .p3
  | _ => .p4

/-- `POS_OFF[p]` (R61). -/
def posOff : Position → Nat
  | .p1 => 0
  | .p2 => 7
  | .p3 => 15
  | .p4 => 22

/-- The segment's number, A = 0 to G = 6 (R180). -/
def segNum : Segment → Fin 7
  | .A => 0
  | .B => 1
  | .C => 2
  | .D => 3
  | .E => 4
  | .F => 5
  | .G => 6

/-- The segments in ascending order (R182). -/
def allSegments : List Segment := [.A, .B, .C, .D, .E, .F, .G]

/-- `SEG_ON[d][s]` (R60). -/
def segIsOn (cfg : Params) (d : Fin 10) (s : Segment) : Bool := cfg.segOn[d].getLsbD (segNum s).val

/-- `SEG_OFF[d][s]` (R60). -/
def segIsOff (cfg : Params) (d : Fin 10) (s : Segment) : Bool := cfg.segOff[d].getLsbD (segNum s).val

/-- `SEG_ADDR[s] + POS_OFF[p]` (R59, R182). -/
def segColumn (cfg : Params) (s : Segment) (p : Position) : Nat := cfg.segAddr[segNum s].val + posOff p

/-- The tens digit of a clock value (R158). -/
def tensDigit (v : BitVec 8) (h : v.toNat ≤ 99) : Fin 10 := ⟨v.toNat / 10, by omega⟩

/-- The ones digit of a clock value (R158). -/
def onesDigit (v : BitVec 8) : Fin 10 := ⟨v.toNat % 10, by omega⟩

end Machine
end Sys2Proof
end

