-- ==== Sys2Proof/Machine/Ops.lean ====
section
/-! DEFINITION. The named operations: the framebuffer's bytes and pixels (R50 to R55), the glyph rasteriser's loops (R132),
the icon write and the digit write (R150, R182), `emit`, `respond` and `raise` (R13, R226), reset (R251), and what
a transfer on each channel does to the state (R232). -/

namespace Sys2Proof
namespace Machine
open Config

/-! ## The framebuffer -/

/-- What an unlisted byte of FB reads as: the reset value that R22 gives every byte. -/
def fbResetByte : Byte := 0x00

/-- `fb[a]` (R13). -/
def Memory.read : Memory → Nat → Byte
  | [], _ => fbResetByte
  | (k, v) :: m, a => if k = a then v else Memory.read m a

/-- `fb[a] <- v` (R13), keeping the canonical form: addresses rise, and no entry holds `fbResetByte`. -/
def Memory.write : Memory → Nat → Byte → Memory
  | [], a, v => if v = fbResetByte then [] else [(a, v)]
  | (k, w) :: m, a, v =>
    if a < k then (if v = fbResetByte then (k, w) :: m else (a, v) :: (k, w) :: m)
    else if a = k then (if v = fbResetByte then m else (a, v) :: m)
    else (k, w) :: Memory.write m a v

/-- Every address is at least `lo` and below 1056, they rise strictly, and no entry holds the unlisted value. -/
def Memory.wfFrom : Nat → Memory → Bool
  | _, [] => true
  | lo, (k, v) :: m => lo ≤ k && k < FB_BYTES && v != fbResetByte && Memory.wfFrom (k + 1) m

/-- The canonical form: equal framebuffers are equal lists. -/
def Memory.wf (m : Memory) : Bool := Memory.wfFrom 0 m

/-- FB after `for a in 0..1055: fb[a] <- 0x00` (R110): nothing is listed. -/
def Memory.cleared : Memory := []

/-- `Pixel(fb, x, y)` (R54). -/
def pixel (fb : Memory) (x y : Nat) : Bool :=
  if inB x y then (fb.read (fbAddr x y)).getLsbD (fbBit x y) else false

/-- The byte that `PixelWrite` stores over `b` (R55): bit `k` set or cleared, the other seven kept. -/
def withBit (b : Byte) (k : Nat) (on : Bool) : Byte :=
  if on then b ||| (1#8 <<< k) else b &&& ~~~(1#8 <<< k)

/-- `PixelWrite(x, y, on)` (R55). Out of bounds no address is formed and nothing happens (R52). -/
def pixelWrite (fb : Memory) (x y : Nat) (on : Bool) : Memory :=
  if inB x y then fb.write (fbAddr x y) (withBit (fb.read (fbAddr x y)) (fbBit x y) on) else fb

/-- The inner loop of R132: rows `rs` of one glyph column, its top at `(x, y)`. -/
def drawRows (fb : Memory) (x y : Nat) (col : Byte) (rs : List Nat) : Memory :=
  rs.foldl (fun m r => pixelWrite m x (y + r) (col.getLsbD r)) fb

/-- One glyph column: rows 0..7 (R132). -/
def drawColumn (fb : Memory) (x y : Nat) (col : Byte) : Memory :=
  drawRows fb x y col [0, 1, 2, 3, 4, 5, 6, 7]

/-- The two loops of R132: columns 0..4 at increasing x, the glyph's top left corner at `(x, y)`. -/
def drawGlyph (fb : Memory) (x y : Nat) (glyph : Fin FONT_W → Byte) : Memory :=
  [0, 1, 2, 3, 4].foldl (fun m (i : Fin FONT_W) => drawColumn m (x + i.val) y (glyph i)) fb

/-! ## Emission groups -/

/-- The two column commands for column `c`, in the order `COL_ORDER` (R150, R200). -/
def columnCmds (cfg : Params) (c : Fin 132) : List TxEvent :=
  match cfg.colOrder with
  | .loFirst => [.cmd cfg.colLoCmd[c], .cmd cfg.colHiCmd[c]]
  | .hiFirst => [.cmd cfg.colHiCmd[c], .cmd cfg.colLoCmd[c]]

/-- The data byte of an icon write (R150). -/
def iconByte (cfg : Params) (on : Bool) : Byte := if on then cfg.iconOnByte else cfg.iconOffByte

/-- The four events of an icon write of a column 0..131 (R150). -/
def iconEvents (cfg : Params) (c : Fin 132) (on : Bool) : List TxEvent :=
  .cmd cfg.pageCmd[cfg.iconPage] :: (columnCmds cfg c ++ [.data (iconByte cfg on)])

/-- `IconWrite(col, on)` (R150): nothing for a column above 131. -/
def iconWrite (cfg : Params) (col : Nat) (on : Bool) : List TxEvent :=
  if h : col < 132 then iconEvents cfg ⟨col, h⟩ on else []

/-- `DigitWrite(d, p)` (R182): the on-writes, then the off-writes, each in ascending segment order. -/
def digitWrite (cfg : Params) (d : Fin 10) (p : Position) : List TxEvent :=
  (allSegments.flatMap fun s => if segIsOn cfg d s then iconWrite cfg (segColumn cfg s p) true else []) ++
  (allSegments.flatMap fun s => if segIsOff cfg d s then iconWrite cfg (segColumn cfg s p) false else [])

/-- The events UPDATE emits for one page (R200): page select, column reset pair, 132 data bytes. -/
def pageEvents (cfg : Params) (fb : Memory) (p : Fin PAGES) : List TxEvent :=
  .cmd cfg.pageCmd[p.val] :: (columnCmds cfg 0 ++
    (List.range WIDTH).map fun c => .data (fb.read (fbByte p.val c)))

/-- The emission group of UPDATE (R200): pages 0..7 in increasing order. -/
def updateEvents (cfg : Params) (fb : Memory) : List TxEvent :=
  ([0, 1, 2, 3, 4, 5, 6, 7] : List (Fin PAGES)).flatMap (pageEvents cfg fb)

/-! ## Effects on the state -/

/-- FB replaced as a whole. -/
def State.setFb (s : State) (m : Memory) : State := { s with fb := m }

/-- `CURSOR_X <- x` (R23). -/
def State.setCursorX (s : State) (x : BitVec 16) : State := { s with cursorX := x }

/-- `CURSOR_Y <- y` (R24). -/
def State.setCursorY (s : State) (y : BitVec 8) : State := { s with cursorY := y }

/-- `emit` for each event of a group, in order: appended to TXQ (R13, R30). -/
def State.emit (s : State) (group : List TxEvent) : State := { s with txq := s.txq ++ group }

/-- `respond(ok, data)` (R13, R31). -/
def State.respond (s : State) (ok : Bool) (data : Byte) : State := { s with rsp := some ⟨ok, data⟩ }

/-- `raise <Cause>`: the fault entry of R226. FB, the cursor and TXQ are untouched. There is no return from a fault
(R228): only `State.resetAction` leaves it. -/
def State.raise (s : State) (c : Cause) : State :=
  { s with fault := true, cause := c, rsp := some ⟨false, (causeCode c).setWidth 8⟩ }

/-- The reset action (R251) at an edge with `rst = 1`: every state element of the block takes its reset value, so a
request in progress is aborted, its pending events discarded and its response never offered (R253). The log keeps
what the transport accepted, no event is emitted (R252), and the configuration does not change (R33). -/
def State.resetAction (s : State) : State :=
  { s with
    fb := Memory.cleared, cursorX := 0, cursorY := 0, busy := false, fault := false, cause := .none,
    txq := [], rsp := none }

/-- A request transfer (R26, R232): BUSY is set and the host moves on to its next request. -/
def State.accept (s : State) : State := { s with busy := true, requests := s.requests.tail }

/-- A `tx` transfer (R232): the head of TXQ moves to the end of TXLOG. -/
def State.takeTx (s : State) : State := { s with txq := s.txq.tail, txlog := s.txlog ++ s.txq.take 1 }

/-- A `rsp` transfer (R232): RSP and BUSY are cleared. -/
def State.takeRsp (s : State) : State := { s with busy := false, rsp := none }

/-- The clock edge has passed: its pins are no longer among the coming ones. -/
def State.passEdge (s : State) : State := { s with edges := s.edges.tail }

/-- The pins at the next clock edge. -/
def State.nextEdge (s : State) : Edge := s.edges.head?.getD s.steady

/-- The state once the transport has accepted every pending event and the host has taken the response (R64, R73):
what the single-step reading of R64 leaves. -/
def State.complete (s : State) : State :=
  { s with txlog := s.txlog ++ s.txq, txq := [], rsp := none, busy := false }

/-- `s` with the request word offered to the block at the very next edge, the block being idle and unfaulted: a
request in progress is first completed, and a recorded fault is taken away. -/
def State.offerNext (s : State) (w : Word) : State :=
  { s.complete with
    fault := false, cause := .none, requests := w :: s.requests, edges := Edge.ready :: s.edges }

end Machine
end Sys2Proof
end

