-- ==== Sys2Proof/Machine/PixelBuffer.lean ====
section
/-! DEFINITION. The pixel buffer requests (40_pixel_buffer.md). -/

namespace Sys2Proof
namespace Machine
open Config

/-- CLEAR (R110). -/
def execClear (s : State) : Result :=
  .next ((s.setFb Memory.cleared).respond true 0x00)

/-- SET_PIXEL x, y, on (R111). -/
def execSetPixel (x y : BitVec 8) (on : Bool) (s : State) : Result :=
  .next ((s.setFb (pixelWrite s.fb x.toNat y.toNat on)).respond true 0x00)

/-- GET_PIXEL x, y (R112): `zext_8` of the pixel, 0x00 out of bounds. -/
def execGetPixel (x y : BitVec 8) (s : State) : Result :=
  .next (s.respond true ((BitVec.ofBool (pixel s.fb x.toNat y.toNat)).setWidth 8))

/-- READ_PAGE_ROW page, col (R113): the raw byte, 0x00 out of range. -/
def execReadPageRow (page col : BitVec 8) (s : State) : Result :=
  .next (s.respond true
    (if page.toNat < PAGES ∧ col.toNat < WIDTH then s.fb.read (fbByte page.toNat col.toNat) else 0x00))

end Machine
end Sys2Proof
end

