-- ==== Sys2Proof/Machine/Reserved.lean ====
section
/-! DEFINITION. The reserved opcode 0xF (R85, R221). -/

namespace Sys2Proof
namespace Machine

/-- A word with opcode 0xF raises ILLEGAL_OPCODE, whatever its other bits (R221). -/
def execReserved (_bits : BitVec 28) (s : State) : Result :=
  .next (s.raise .illegalOpcode)

end Machine
end Sys2Proof
end

