-- ==== Sys2Proof/Machine/SevenSegment.lean ====
section
/-! DEFINITION. The seven-segment digit request (43_seven_segment.md). -/

namespace Sys2Proof
namespace Machine
open Config

/-- RENDER_DIGIT digit, position (R183): DIGIT_RANGE when the digit exceeds 9 (R223), else the digit's segments at the
clamped position. -/
def execRenderDigit (digit position : BitVec 8) (s : State) : Result :=
  if h : digit.toNat < 10 then
    .next ((s.emit (digitWrite s.cfg ⟨digit.toNat, h⟩ (clampPosition position.toNat))).respond true 0x00)
  else .next (s.raise .digitRange)

end Machine
end Sys2Proof
end

