-- ==== Sys2Proof/Machine/StatusBar.lean ====
section
/-! DEFINITION. The status bar requests (42_status_bar.md). -/

namespace Sys2Proof
namespace Machine
open Config

/-- ICON_WRITE col, on (R152): no event for a column above 131. -/
def execIconWrite (col : BitVec 8) (on : Bool) (s : State) : Result :=
  .next ((s.emit (iconWrite s.cfg col.toNat on)).respond true 0x00)

/-- The emission group of SIGNAL at a clamped level `L` (R153): five bars, lowest address first. -/
def signalGroup (cfg : Params) (L : Nat) : List TxEvent :=
  (List.range SIGNAL_BARS).flatMap fun k => iconWrite cfg (cfg.signalBase.val + k) (k < L)

/-- SIGNAL level (R153). -/
def execSignal (level : BitVec 8) (s : State) : Result :=
  .next ((s.emit (signalGroup s.cfg (min level.toNat SIGNAL_MAX))).respond true 0x00)

/-- BELL state (R154). -/
def execBell (state : Bool) (s : State) : Result :=
  .next ((s.emit (iconWrite s.cfg s.cfg.bellAddr.val state)).respond true 0x00)

/-- MESSAGE state (R155). -/
def execMessage (state : Bool) (s : State) : Result :=
  .next ((s.emit (iconWrite s.cfg s.cfg.messageAddr.val state)).respond true 0x00)

/-- The emission group of NETWORK at a clamped state `S` (R156): receive by bit 0, then send by bit 1. -/
def networkGroup (cfg : Params) (S : Nat) : List TxEvent :=
  iconWrite cfg cfg.netRxAddr.val (S.testBit 0) ++ iconWrite cfg cfg.netTxAddr.val (S.testBit 1)

/-- NETWORK state (R156). -/
def execNetwork (state : BitVec 8) (s : State) : Result :=
  .next ((s.emit (networkGroup s.cfg (min state.toNat NET_MAX))).respond true 0x00)

/-- The emission group of BATTERY at a clamped level `L` (R157): addresses base, base+1, base+3, base+2, the k-th
write on when `L >= k`. -/
def batteryGroup (cfg : Params) (L : Nat) : List TxEvent :=
  iconWrite cfg (cfg.batteryBase.val + 0) true ++
  iconWrite cfg (cfg.batteryBase.val + 1) (1 ≤ L) ++
  iconWrite cfg (cfg.batteryBase.val + 3) (2 ≤ L) ++
  iconWrite cfg (cfg.batteryBase.val + 2) (3 ≤ L)

/-- BATTERY level (R157). -/
def execBattery (level : BitVec 8) (s : State) : Result :=
  .next ((s.emit (batteryGroup s.cfg (min level.toNat BATT_MAX))).respond true 0x00)

/-- The emission group of CLOCK (R158): the four digits at positions 1 to 4, then the separator. -/
def clockGroup (cfg : Params) (segment1 segment2 : BitVec 8) (h : segment1.toNat ≤ 99 ∧ segment2.toNat ≤ 99)
    (separator : Bool) : List TxEvent :=
  digitWrite cfg (tensDigit segment1 h.1) .p1 ++
  digitWrite cfg (onesDigit segment1) .p2 ++
  digitWrite cfg (tensDigit segment2 h.2) .p3 ++
  digitWrite cfg (onesDigit segment2) .p4 ++
  iconWrite cfg cfg.sepAddr.val separator

/-- CLOCK segment_1, segment_2, separator (R158): CLOCK_RANGE when a value exceeds 99, before any event (R224). -/
def execClock (segment1 segment2 : BitVec 8) (separator : Bool) (s : State) : Result :=
  if h : segment1.toNat ≤ 99 ∧ segment2.toNat ≤ 99 then
    .next ((s.emit (clockGroup s.cfg segment1 segment2 h separator)).respond true 0x00)
  else .next (s.raise .clockRange)

end Machine
end Sys2Proof
end

