-- ==== Sys2Proof/Machine/TextRenderer.lean ====
section
/-! DEFINITION. The text renderer requests (41_text_renderer.md). -/

namespace Sys2Proof
namespace Machine
open Config

/-- SET_CURSOR x0, y0 (R130): `CURSOR_X <- zext_16(x0)`, `CURSOR_Y <- y0`. -/
def execSetCursor (x0 y0 : BitVec 8) (s : State) : Result :=
  .next (((s.setCursorX (x0.setWidth 16)).setCursorY y0).respond true 0x00)

/-- RENDER_CHAR code (R132): a code that is not printable is skipped; a printable one is drawn at the cursor, at
full-width coordinates, and the cursor advances with saturation (R133, R134). -/
def execRenderChar (code : BitVec 8) (s : State) : Result :=
  if h : printable code.toNat = true then
    .next (((s.setFb (drawGlyph s.fb s.cursorX.toNat s.cursorY.toNat (glyphCol s.cfg code.toNat h))).setCursorX
      (sat16 (s.cursorX.toNat + advance code.toNat))).respond true 0x00)
  else .next (s.respond true 0x00)

end Machine
end Sys2Proof
end

