-- ==== Sys2Proof/Machine/Update.lean ====
section
/-! DEFINITION. The full-frame update (44_update.md). -/

namespace Sys2Proof
namespace Machine

/-- UPDATE (R200): FB is read and sent, never written. -/
def execUpdate (s : State) : Result :=
  .next ((s.emit (updateEvents s.cfg s.fb)).respond true 0x00)

end Machine
end Sys2Proof
end

