-- ==== Sys2Proof/Machine/Dispatch.lean ====
section
/-! DEFINITION. The dispatch: one arm for each constructor of `Instr`, each one call of that request's meaning. -/

namespace Sys2Proof
namespace Machine

/-- The effect of accepting a request (R64): all of it at once. -/
def exec (i : Instr) (s : State) : Host.Outcome State Fault Refusal :=
  match i with
  | .clear => Sys2Proof.Machine.execClear s
  | .setPixel x y on => Sys2Proof.Machine.execSetPixel x y on s
  | .getPixel x y => Sys2Proof.Machine.execGetPixel x y s
  | .readPageRow page col => Sys2Proof.Machine.execReadPageRow page col s
  | .setCursor x0 y0 => Sys2Proof.Machine.execSetCursor x0 y0 s
  | .renderChar code => Sys2Proof.Machine.execRenderChar code s
  | .update => Sys2Proof.Machine.execUpdate s
  | .iconWrite col on => Sys2Proof.Machine.execIconWrite col on s
  | .signal level => Sys2Proof.Machine.execSignal level s
  | .bell state => Sys2Proof.Machine.execBell state s
  | .message state => Sys2Proof.Machine.execMessage state s
  | .network state => Sys2Proof.Machine.execNetwork state s
  | .battery level => Sys2Proof.Machine.execBattery level s
  | .renderDigit digit position => Sys2Proof.Machine.execRenderDigit digit position s
  | .clock segment1 segment2 separator => Sys2Proof.Machine.execClock segment1 segment2 separator s
  | .reserved bits => Sys2Proof.Machine.execReserved bits s

end Machine
end Sys2Proof
end

