-- ==== Sys2Proof/Machine/ClockEdge.lean ====
section
/-! DEFINITION. One rising edge of `clk` (R232, R250): reset, or the transfer that the ports allow, or nothing. -/

namespace Sys2Proof
namespace Machine

/-- An accepted request word (R64, R84): a decoded request has its effect, and a word with a reserved bit set raises
RESERVED_BITS (R222). -/
def serve (w : Word) (s : State) : Result :=
  match decode w with
  | .ok i => exec i s
  | .error .reservedBits => .next (s.raise .reservedBits)

/-- The word on `req_word` while `req_valid` is 1: the head of the host's request list, if the host offers it (R21). -/
def State.offered (s : State) (e : Edge) : Option Word := if e.reqValid then s.requests.head? else none

/-- The transfers at an edge with pins `e`, when `rst` is 0 (R232). The three channels exclude each other in every
state that keeps `State.Inv`: a request needs BUSY = 0, an event a non-empty TXQ, a response an empty one. -/
def transfer (e : Edge) (s : State) : Result :=
  if s.txValid e.rst && e.txReady then .next s.takeTx
  else if s.rspValid e.rst && e.rspReady then .next s.takeRsp
  else if s.reqReady e.rst then
    match s.offered e with
    | some w => serve w s.accept
    | none => .next s
  else .next s

/-- One rising edge. An edge with `rst = 1` performs the reset action, whatever is in progress (R250). With no listed
edge left and `rst` not asserted, a block halted by a fault has no enabled step (R228): the fault outcome. -/
def clockEdge (s : State) : Result :=
  if s.nextEdge.rst then .next s.passEdge.resetAction
  else if s.halted && s.edges.isEmpty then .fault (.haltedUntilReset s.cause)
  else transfer s.nextEdge s.passEdge

end Machine
end Sys2Proof
end

