-- ==== Sys2Proof/Machine/Step.lean ====
section
/-! DEFINITION. The step: one rising edge of `clk`. -/

namespace Sys2Proof
namespace Machine

/-- One step of the machine is one rising edge of `clk` (R232, R262). -/
def step (s : State) : Host.Outcome State Fault Refusal := Sys2Proof.Machine.clockEdge s

/-- `s` with the table word offered as the request that the very next step accepts (log entry 5). -/
def State.withFetchWord (s : State) (nbits w : Nat) : State := s.offerNext (tableWord nbits w)

end Machine
end Sys2Proof
end

