-- ==== Sys2Proof/Machine/Observe.lean ====
section
/-! DEFINITION. What can be said of the block from outside: the icon view of a transport log (R151), and the single-step
reading of a request and of a request list (R64, R72). -/

namespace Sys2Proof
namespace Machine
open Config

/-- What the log says of one icon column (R151). -/
inductive IconState where
  | on
  | off
  | unknown
deriving DecidableEq, Repr

/-- The data byte of an icon write of column `c` that stands at the head of a log: page select of the icon page, the two
column commands of `c`, one data byte (R150). -/
def iconWriteAtHead (cfg : Params) (c : Fin 132) : List TxEvent → Option Byte
  | .cmd p :: .cmd first :: .cmd second :: .data b :: _ =>
    if p = cfg.pageCmd[cfg.iconPage] ∧ [.cmd first, .cmd second] = columnCmds cfg c then some b else none
  | _ => none

/-- The data bytes of the icon writes of column `c` in a log, oldest first (R151). Three commands followed by a data byte
stand in a log only where an icon write or a page of UPDATE begins, so looking at every position finds exactly
what splitting the log into emission groups finds (log entry 8). -/
def iconDataOf (cfg : Params) (c : Fin 132) : List TxEvent → List Byte
  | [] => []
  | e :: log => (iconWriteAtHead cfg c (e :: log)).toList ++ iconDataOf cfg c log

/-- `IconView(TXLOG, col)` (R151): what the last icon write of the column carried. -/
def iconView (cfg : Params) (log : List TxEvent) (c : Fin 132) : IconState :=
  match (iconDataOf cfg c log).getLast? with
  | none => .unknown
  | some b => if b = cfg.iconOnByte then .on else if b = cfg.iconOffByte then .off else .unknown

/-- A request list run request by request, each one accepted, drained and answered at once (R64). A word that is still to
be served after a fault is never accepted: the fault outcome of R228. -/
def serveAll : List Word → State → Result
  | [], s => .next s
  | w :: ws, s =>
    if s.fault then .fault (.haltedUntilReset s.cause)
    else match serve w s.accept with
      | .next t => serveAll ws t.complete
      | .fault r => .fault r
      | .refused r => .refused r

/-- `popcount` of a segment mask: how many segments it names (R158, R183). -/
def popcount (mask : BitVec 7) : Nat := ((List.range 7).filter fun s => mask.getLsbD s).length

/-- The printable codes of a text (R135's `P`). -/
def printableCodes (text : List Nat) : List Nat := text.filter printable

/-- The columns a text moves the cursor by, before saturation: the sum of its printable codes' advances (R135). -/
def textWidth (text : List Nat) : Nat := ((printableCodes text).map advance).sum

end Machine
end Sys2Proof
end

