-- ==== Sys2Proof/Safety.lean ====
section
/-! DEFINITION. What a safe state is, in the terms the statements use. -/

namespace Sys2Proof
namespace Machine

/-- The invariant of the block: FB keeps its canonical form; nothing is pending while BUSY is 0, and a response is
pending while it is 1 (R26, R31); CAUSE is NONE exactly while FAULT is 0 (R28); while a fault is recorded TXQ is empty and a
pending response is `(0, CAUSE)`, and a pending response says `ok` otherwise (R226, R232); the configuration meets R9. -/
def State.Inv (s : State) : Prop :=
  s.fb.wf = true ∧
  (s.busy = false → s.txq = [] ∧ s.rsp = none) ∧
  (s.busy = true → s.rsp.isSome = true) ∧
  (s.fault = false ↔ s.cause = .none) ∧
  (s.fault = true → s.txq = []) ∧
  (∀ r, s.rsp = some r → r.ok = !s.fault ∧ (s.fault = true → r.data = (causeCode s.cause).setWidth 8)) ∧
  s.cfg.wf

/-- The block is idle and unfaulted: `req_ready` is 1 unless `rst` is (R232), and nothing is pending. -/
def State.Idle (s : State) : Prop :=
  s.busy = false ∧ s.fault = false ∧ s.txq = [] ∧ s.rsp = none

/-- The environment is always ready: no listed edge is left, and every edge from now on offers, takes and never resets. -/
def State.AlwaysReady (s : State) : Prop := s.edges = [] ∧ s.steady = Edge.ready

end Machine
end Sys2Proof
end

