-- ==== Sys2Proof/Certificates/Slice0/Obligations.lean ====
section
/-! DEFINITION. The statements. Numerals of the spec are written as numerals here, so that a wrong constant in Config.lean
would make a statement false. The host's list and the pins (`requests`, `edges`, `steady`) are the model's own fields wherever a
statement speaks of them (log entries 2 and 3). -/

open Sys2Proof Sys2Proof.Machine Sys2Proof.Config

/-! ## Encoding -/

/-- Every request, with every operand at every value its field admits, is read back from its word (R81, R83, R84). -/
def Obligations.EncodeThenDecodeGivesTheRequest : Prop :=
  ∀ i : Instr, decode (encode i) = .ok i

/-- A word that decodes is the word of the request it decodes to, so no word has two readings and no bit of a word that
decodes is dropped (R81, R84). -/
def Obligations.DecodeThenEncodeGivesTheWord : Prop :=
  ∀ (w : Word) (i : Instr), decode w = .ok i → encode i = w

/-- R84, R81, R83: for an opcode 0x0 to 0xE the word is rejected exactly when a reserved-zero bit of the opcode's format (R81's
last column) is 1, and decodes otherwise. That a word of opcode 0xF, which R84 and R221 let the decoder fault, decodes to the
reserved request whatever its other bits is the model's division of decoder and meaning (log entry 14). -/
def Obligations.DecodeRejectsExactlyReservedBits : Prop :=
  ∀ w : Word,
    (w.extractLsb' 28 4 = 0xF#4 → decode w = .ok (.reserved (w.extractLsb' 0 28))) ∧
    (∀ k : Fin 15, w.extractLsb' 28 4 = BitVec.ofNat 4 k.val →
      let reservedZero : Word := #v[0x0FFFFFFF#32, 0x0FFE0000, 0x0FFF0000, 0x0FFF0000, 0x0FFF0000, 0x0FFFFF00,
        0x0FFFFFFF, 0x0FFEFF00, 0x0FFFFF00, 0x0FFEFFFF, 0x0FFEFFFF, 0x0FFFFF00, 0x0FFFFF00, 0x0FFF0000,
        0x0FFE0000][k]
      (w &&& reservedZero ≠ 0#32 → decode w = .error .reservedBits) ∧
      (w &&& reservedZero = 0#32 → ∃ i, decode w = .ok i))

/-- A word of each opcode, most of them examples of 30_encoding.md section 4, decodes to its request, and a word with a reserved
bit set is rejected. Section 4 says that 0xF0000000 raises ILLEGAL_OPCODE: that it decodes to the reserved request, whose
meaning raises it, is the model's division (log entry 14). -/
def Obligations.ExampleWordsDecode : Prop :=
  decode 0x00000000 = .ok .clear ∧
  decode 0x1001140A = .ok (.setPixel 10 20 true) ∧
  decode 0x10003F83 = .ok (.setPixel 131 63 false) ∧
  decode 0x20000905 = .ok (.getPixel 5 9) ∧
  decode 0x30000105 = .ok (.readPageRow 1 5) ∧
  decode 0x40000400 = .ok (.setCursor 0 4) ∧
  decode 0x50000041 = .ok (.renderChar 65) ∧
  decode 0x60000000 = .ok .update ∧
  decode 0x70010025 = .ok (.iconWrite 37 true) ∧
  decode 0x80000009 = .ok (.signal 9) ∧
  decode 0x90010000 = .ok (.bell true) ∧
  decode 0xA0000000 = .ok (.message false) ∧
  decode 0xB0000002 = .ok (.network 2) ∧
  decode 0xC0000004 = .ok (.battery 4) ∧
  decode 0xD0000207 = .ok (.renderDigit 7 2) ∧
  decode 0xE0012A07 = .ok (.clock 7 42 true) ∧
  decode 0xF0000000 = .ok (.reserved 0) ∧
  decode 0x00000001 = .error .reservedBits

/-- R87, R88, for every form of line: it assembles exactly when each operand of an `A` or `B` field (and each byte of a
string) is at most 255 and each operand of an `E` field at most 1; what it assembles to decodes, word by word, to the requests
it stands for, a pseudo-instruction to its expansion; and every operand is read back as the number that was written, so
nothing is truncated. -/
def Obligations.AssembledLinesDecodeToTheirRequests : Prop :=
  let requests (l : AsmLine) : Option (List (Except DecodeReject Instr)) := (assemble l).map (List.map decode)
  (∀ l : AsmLine, assemble l ≠ none ↔ match l with
    | .clear => True
    | .setPixel x y on => x ≤ 255 ∧ y ≤ 255 ∧ on ≤ 1
    | .getPixel x y => x ≤ 255 ∧ y ≤ 255
    | .readPageRow page col => page ≤ 255 ∧ col ≤ 255
    | .setCursor x0 y0 => x0 ≤ 255 ∧ y0 ≤ 255
    | .renderChar code => code ≤ 255
    | .update => True
    | .iconWrite col on => col ≤ 255 ∧ on ≤ 1
    | .signal level => level ≤ 255
    | .bell state => state ≤ 1
    | .message state => state ≤ 1
    | .network state => state ≤ 255
    | .battery level => level ≤ 255
    | .renderDigit digit position => digit ≤ 255 ∧ position ≤ 255
    | .clock segment1 segment2 separator => segment1 ≤ 255 ∧ segment2 ≤ 255 ∧ separator ≤ 1
    | .render x0 y0 text => x0 ≤ 255 ∧ y0 ≤ 255 ∧ ∀ c ∈ text, c ≤ 255
    | .pixelOn x y => x ≤ 255 ∧ y ≤ 255
    | .pixelOff x y => x ≤ 255 ∧ y ≤ 255
    | .iconOn col => col ≤ 255
    | .iconOff col => col ≤ 255
    | .frame => True) ∧
  requests .clear = some [.ok .clear] ∧ requests .update = some [.ok .update] ∧ requests .frame = some [.ok .clear] ∧
  (∀ a : BitVec 8,
    requests (.renderChar a.toNat) = some [.ok (.renderChar a)] ∧
    requests (.signal a.toNat) = some [.ok (.signal a)] ∧
    requests (.network a.toNat) = some [.ok (.network a)] ∧
    requests (.battery a.toNat) = some [.ok (.battery a)] ∧
    requests (.iconOn a.toNat) = some [.ok (.iconWrite a true)] ∧
    requests (.iconOff a.toNat) = some [.ok (.iconWrite a false)]) ∧
  (∀ e : Bool,
    requests (.bell e.toNat) = some [.ok (.bell e)] ∧ requests (.message e.toNat) = some [.ok (.message e)]) ∧
  (∀ (a : BitVec 8) (e : Bool), requests (.iconWrite a.toNat e.toNat) = some [.ok (.iconWrite a e)]) ∧
  (∀ a b : BitVec 8,
    requests (.getPixel a.toNat b.toNat) = some [.ok (.getPixel a b)] ∧
    requests (.readPageRow a.toNat b.toNat) = some [.ok (.readPageRow a b)] ∧
    requests (.setCursor a.toNat b.toNat) = some [.ok (.setCursor a b)] ∧
    requests (.renderDigit a.toNat b.toNat) = some [.ok (.renderDigit a b)] ∧
    requests (.pixelOn a.toNat b.toNat) = some [.ok (.setPixel a b true)] ∧
    requests (.pixelOff a.toNat b.toNat) = some [.ok (.setPixel a b false)]) ∧
  (∀ (a b : BitVec 8) (e : Bool),
    requests (.setPixel a.toNat b.toNat e.toNat) = some [.ok (.setPixel a b e)] ∧
    requests (.clock a.toNat b.toNat e.toNat) = some [.ok (.clock a b e)]) ∧
  (∀ (a b : BitVec 8) (cs : List (BitVec 8)),
    requests (.render a.toNat b.toNat (cs.map BitVec.toNat)) =
      some (.ok (.setCursor a b) :: cs.map fun c => .ok (.renderChar c)))

/-! ## The address generator -/

/-- R51, R52, R56: an in-bounds pixel's byte exists and is `(y / 8) * 132 + x`, its bit `y % 8`; distinct pixels have
distinct (byte, bit) pairs, and every pair is some pixel's. -/
def Obligations.AddressGeneratorIsOneToOneAndOnto : Prop :=
  (∀ x y, inB x y = true ↔ x < 132 ∧ y < 64) ∧
  (∀ x y, inB x y = true → fbAddr x y = y / 8 * 132 + x ∧ fbBit x y = y % 8 ∧ fbAddr x y ≤ 1055 ∧ fbBit x y ≤ 7) ∧
  (∀ x y x' y', inB x y = true → inB x' y' = true → fbAddr x y = fbAddr x' y' → fbBit x y = fbBit x' y' →
    x = x' ∧ y = y') ∧
  (∀ a b, a < 1056 → b < 8 → ∃ x y, inB x y = true ∧ fbAddr x y = a ∧ fbBit x y = b)

/-- R56: writes of distinct pixels commute, and the two orders leave the same framebuffer. -/
def Obligations.PixelWritesOfDistinctPixelsCommute : Prop :=
  ∀ (fb : Memory) (x1 y1 x2 y2 : Nat) (v1 v2 : Bool), fb.wf = true → (x1, y1) ≠ (x2, y2) →
    pixelWrite (pixelWrite fb x1 y1 v1) x2 y2 v2 = pixelWrite (pixelWrite fb x2 y2 v2) x1 y1 v1

/-- The canonical form of FB carries its meaning: two canonical framebuffers with the same 132 x 64 pixels are the same
list, and every framebuffer write keeps the form: a pixel write, a glyph draw, CLEAR and `rst` (whatever FB held), and so every
request and every accepted word (R22, R53, R55, R110, R251; the list form is log entry 9's). -/
def Obligations.FramebufferFormIsCanonical : Prop :=
  (∀ m n : Memory, m.wf = true → n.wf = true →
    (∀ x y, x < 132 → y < 64 → (m.read (y / 8 * 132 + x)).getLsbD (y % 8) = (n.read (y / 8 * 132 + x)).getLsbD (y % 8)) →
    m = n) ∧
  (∀ (m : Memory) (x y : Nat) (v : Bool), m.wf = true → (pixelWrite m x y v).wf = true) ∧
  (∀ (m : Memory) (x y : Nat) (g : Fin 5 → Byte), m.wf = true → (drawGlyph m x y g).wf = true) ∧
  (∀ s t : State, exec .clear s = .next t → t.fb.wf = true) ∧
  (∀ s : State, s.resetAction.fb.wf = true) ∧
  (∀ (i : Instr) (s t : State), s.fb.wf = true → exec i s = .next t → t.fb.wf = true) ∧
  (∀ (w : Word) (s t : State), s.fb.wf = true → serve w s = .next t → t.fb.wf = true)

/-! ## Pixel buffer requests -/

/-- R110: CLEAR. -/
def Obligations.ClearZeroesTheFramebuffer : Prop :=
  (∀ w : Word, w = 0x00000000#32 → decode w = .ok .clear) ∧
  ∀ s : State, ∃ t, exec .clear s = .next t ∧
    t = { s with fb := t.fb, rsp := some ⟨true, 0x00⟩ } ∧
    (∀ a, t.fb.read a = 0x00) ∧ (∀ x y, pixel t.fb x y = false)

/-- R111, R55: SET_PIXEL writes its pixel if it is in bounds, and nothing else; out of bounds FB is unchanged. -/
def Obligations.SetPixelWritesExactlyItsPixel : Prop :=
  (∀ w : Word, w &&& 0xFFFE0000 = 0x10000000 →
    decode w = .ok (.setPixel (w.extractLsb' 0 8) (w.extractLsb' 8 8) (w.getLsbD 16))) ∧
  ∀ (s : State) (x y : BitVec 8) (on : Bool), s.fb.wf = true →
    ∃ t, exec (.setPixel x y on) s = .next t ∧
      t = { s with fb := t.fb, rsp := some ⟨true, 0x00⟩ } ∧
      (∀ x' y', x' < 132 → y' < 64 →
        pixel t.fb x' y' = if x' = x.toNat ∧ y' = y.toNat then on else pixel s.fb x' y') ∧
      (∀ a, (inB x.toNat y.toNat = true → a ≠ fbAddr x.toNat y.toNat) → t.fb.read a = s.fb.read a) ∧
      (132 ≤ x.toNat ∨ 64 ≤ y.toNat → t.fb = s.fb)

/-- R112, R54: GET_PIXEL. -/
def Obligations.GetPixelRespondsThePixel : Prop :=
  (∀ w : Word, w &&& 0xFFFF0000 = 0x20000000 →
    decode w = .ok (.getPixel (w.extractLsb' 0 8) (w.extractLsb' 8 8))) ∧
  ∀ (s : State) (x y : BitVec 8),
    exec (.getPixel x y) s = .next { s with rsp := some ⟨true,
      if x.toNat < 132 ∧ y.toNat < 64 ∧
        (s.fb.read (y.toNat / 8 * 132 + x.toNat)).getLsbD (y.toNat % 8) = true then 0x01 else 0x00⟩ }

/-- R113: READ_PAGE_ROW. -/
def Obligations.ReadPageRowRespondsTheByte : Prop :=
  (∀ w : Word, w &&& 0xFFFF0000 = 0x30000000 →
    decode w = .ok (.readPageRow (w.extractLsb' 8 8) (w.extractLsb' 0 8))) ∧
  ∀ (s : State) (page col : BitVec 8),
    exec (.readPageRow page col) s = .next { s with rsp := some ⟨true,
      if page.toNat < 8 ∧ col.toNat < 132 then s.fb.read (page.toNat * 132 + col.toNat) else 0x00⟩ }

/-- R114: the pixel round trip, through the requests. -/
def Obligations.PixelRoundTrip : Prop :=
  ∀ (s : State) (x y : BitVec 8) (v : Bool), s.fb.wf = true →
    ∃ t, exec (.setPixel x y v) s = .next t ∧
      (x.toNat < 132 → y.toNat < 64 →
        (∃ u, exec (.getPixel x y) t = .next u ∧ u.rsp = some ⟨true, if v then 0x01 else 0x00⟩) ∧
        (∀ x' y' : BitVec 8, x'.toNat < 132 → y'.toNat < 64 → (x', y') ≠ (x, y) →
          ∃ u u0, exec (.getPixel x' y') t = .next u ∧ exec (.getPixel x' y') s = .next u0 ∧ u.rsp = u0.rsp)) ∧
      (132 ≤ x.toNat ∨ 64 ≤ y.toNat → ∀ a, t.fb.read a = s.fb.read a)

/-! ## Text renderer requests -/

/-- R130: SET_CURSOR. -/
def Obligations.SetCursorSetsTheCursor : Prop :=
  (∀ w : Word, w &&& 0xFFFF0000 = 0x40000000 →
    decode w = .ok (.setCursor (w.extractLsb' 0 8) (w.extractLsb' 8 8))) ∧
  ∀ (s : State) (x0 y0 : BitVec 8), ∃ t, exec (.setCursor x0 y0) s = .next t ∧
    t = { s with cursorX := t.cursorX, cursorY := y0, rsp := some ⟨true, 0x00⟩ } ∧ t.cursorX.toNat = x0.toNat

/-- R131 to R134, R57: RENDER_CHAR of a printable code draws the opaque 5 x 8 cell, clipped pixel by pixel, and advances the
cursor with saturation; a pixel outside the cell and a byte that no pixel of the cell lies in are unchanged. A code outside
32..127 writes nothing and the cursor does not move. -/
def Obligations.RenderCharDrawsItsGlyphAndAdvances : Prop :=
  (∀ w : Word, w &&& 0xFFFFFF00 = 0x50000000 → decode w = .ok (.renderChar (w.extractLsb' 0 8))) ∧
  (∀ (s : State) (code : BitVec 8), code.toNat < 32 ∨ 127 < code.toNat →
    exec (.renderChar code) s = .next { s with rsp := some ⟨true, 0x00⟩ }) ∧
  ∀ (s : State) (code : BitVec 8), s.fb.wf = true → 32 ≤ code.toNat → code.toNat ≤ 127 →
    ∃ t, exec (.renderChar code) s = .next t ∧
      t = { s with fb := t.fb, cursorX := t.cursorX, rsp := some ⟨true, 0x00⟩ } ∧
      t.cursorX.toNat = min (s.cursorX.toNat + (if code.toNat = 32 then 5 else 6)) 0xFFFF ∧
      (∀ i r, i < 5 → r < 8 → s.cursorX.toNat + i < 132 → s.cursorY.toNat + r < 64 →
        ∃ b : Byte, s.cfg.glyphRom[(code.toNat - 32) * 5 + i]? = some b ∧
          pixel t.fb (s.cursorX.toNat + i) (s.cursorY.toNat + r) = b.getLsbD r) ∧
      (∀ x y, x < 132 → y < 64 →
        (x < s.cursorX.toNat ∨ s.cursorX.toNat + 5 ≤ x ∨ y < s.cursorY.toNat ∨ s.cursorY.toNat + 8 ≤ y) →
        pixel t.fb x y = pixel s.fb x y) ∧
      (∀ a, (∀ i r, i < 5 → r < 8 → inB (s.cursorX.toNat + i) (s.cursorY.toNat + r) = true →
          a ≠ fbAddr (s.cursorX.toNat + i) (s.cursorY.toNat + r)) →
        t.fb.read a = s.fb.read a)

/-- R135: the cursor after a whole `RENDER` line, every request of it served in turn. -/
def Obligations.RenderTextMovesTheCursor : Prop :=
  ∀ (s : State) (x0 y0 : Nat) (text : List Nat), s.Idle → x0 ≤ 255 → y0 ≤ 255 → (∀ c ∈ text, c ≤ 255) →
    ∃ ws t, assemble (.render x0 y0 text) = some ws ∧ serveAll ws s = .next t ∧
      t.cursorX.toNat = min (x0 + 6 * (text.filter fun c => 32 ≤ c && c ≤ 127).length - text.count 32) 0xFFFF ∧
      t.cursorY.toNat = y0 ∧ t.txlog = s.txlog ∧ t.cfg = s.cfg ∧ t.Idle

/-- R135: after a whole `RENDER` line each printable character's glyph stands at its place: no later character of the line
writes over it, and nothing left of, above or below the line is written. -/
def Obligations.RenderTextDrawsEveryGlyph : Prop :=
  ∀ (s : State) (x0 y0 : Nat) (text : List Nat), s.Idle → s.fb.wf = true → x0 ≤ 255 → y0 ≤ 255 → (∀ c ∈ text, c ≤ 255) →
    ∃ ws t, assemble (.render x0 y0 text) = some ws ∧ serveAll ws s = .next t ∧
      (∀ (before : List Nat) (c : Nat) (after : List Nat), text = before ++ c :: after → 32 ≤ c → c ≤ 127 →
        ∀ i r, i < 5 → r < 8 → x0 + textWidth before + i < 132 → y0 + r < 64 →
          ∃ b : Byte, s.cfg.glyphRom[(c - 32) * 5 + i]? = some b ∧
            pixel t.fb (x0 + textWidth before + i) (y0 + r) = b.getLsbD r) ∧
      (∀ x y, x < 132 → y < 64 → (x < x0 ∨ y < y0 ∨ y0 + 8 ≤ y) → pixel t.fb x y = pixel s.fb x y)

/-! ## Icon requests -/

/-- R150: the icon write primitive. -/
def Obligations.IconWriteIsItsFourEvents : Prop :=
  ∀ (cfg : Params) (on : Bool),
    (∀ c : Fin 132, iconWrite cfg c.val on =
      [.cmd cfg.pageCmd[cfg.iconPage],
       .cmd (if cfg.colOrder = .loFirst then cfg.colLoCmd[c] else cfg.colHiCmd[c]),
       .cmd (if cfg.colOrder = .loFirst then cfg.colHiCmd[c] else cfg.colLoCmd[c]),
       .data (if on = true then cfg.iconOnByte else cfg.iconOffByte)]) ∧
    (∀ col, 131 < col → iconWrite cfg col on = [])

/-- R182, R60, R61, R180: the digit write primitive: the on-writes of A..G, then the off-writes, at `SEG_ADDR[s]` plus the
position's offset 0, 7, 15 or 22; a segment in neither set is not written. -/
def Obligations.DigitWriteIsOnWritesThenOffWrites : Prop :=
  ∀ (cfg : Params) (d : Fin 10) (p : Position) (off : Nat),
    (p = .p1 ∧ off = 0) ∨ (p = .p2 ∧ off = 7) ∨ (p = .p3 ∧ off = 15) ∨ (p = .p4 ∧ off = 22) →
    let ons := ([0, 1, 2, 3, 4, 5, 6] : List (Fin 7)).filter fun s => cfg.segOn[d].getLsbD s.val
    let offs := ([0, 1, 2, 3, 4, 5, 6] : List (Fin 7)).filter fun s => cfg.segOff[d].getLsbD s.val
    digitWrite cfg d p =
      ons.flatMap (fun s => iconWrite cfg (cfg.segAddr[s].val + off) true) ++
      offs.flatMap (fun s => iconWrite cfg (cfg.segAddr[s].val + off) false) ∧
    (digitWrite cfg d p).length = 4 * (ons.length + offs.length) ∧
    (∀ s : Fin 7, cfg.segAddr[s].val + off < 132)

/-- R152: ICON_WRITE. -/
def Obligations.IconWriteRequestEmitsOneWrite : Prop :=
  (∀ w : Word, w &&& 0xFFFEFF00 = 0x70000000 → decode w = .ok (.iconWrite (w.extractLsb' 0 8) (w.getLsbD 16))) ∧
  ∀ (s : State) (col : BitVec 8) (on : Bool), ∃ g,
    exec (.iconWrite col on) s = .next { s with txq := s.txq ++ g, rsp := some ⟨true, 0x00⟩ } ∧
    g = iconWrite s.cfg col.toNat on ∧ g.length = if col.toNat ≤ 131 then 4 else 0

/-- R153: SIGNAL: five bars, lowest address first, the first `min(level, 5)` on. -/
def Obligations.SignalDrawsTheBars : Prop :=
  (∀ w : Word, w &&& 0xFFFFFF00 = 0x80000000 → decode w = .ok (.signal (w.extractLsb' 0 8))) ∧
  ∀ (s : State) (level : BitVec 8), ∃ g,
    exec (.signal level) s = .next { s with txq := s.txq ++ g, rsp := some ⟨true, 0x00⟩ } ∧
    g.length = 20 ∧
    ∀ k, k < 5 → s.cfg.signalBase.val + k < 132 ∧
      (g.drop (4 * k)).take 4 = iconWrite s.cfg (s.cfg.signalBase.val + k) (decide (k < min level.toNat 5))

/-- R154, R155: BELL and MESSAGE. -/
def Obligations.BellAndMessageWriteOneIcon : Prop :=
  (∀ w : Word, w &&& 0xFFFEFFFF = 0x90000000 → decode w = .ok (.bell (w.getLsbD 16))) ∧
  (∀ w : Word, w &&& 0xFFFEFFFF = 0xA0000000 → decode w = .ok (.message (w.getLsbD 16))) ∧
  ∀ (s : State) (state : Bool),
    exec (.bell state) s =
      .next { s with txq := s.txq ++ iconWrite s.cfg s.cfg.bellAddr.val state, rsp := some ⟨true, 0x00⟩ } ∧
    exec (.message state) s =
      .next { s with txq := s.txq ++ iconWrite s.cfg s.cfg.messageAddr.val state, rsp := some ⟨true, 0x00⟩ } ∧
    (iconWrite s.cfg s.cfg.bellAddr.val state).length = 4 ∧ (iconWrite s.cfg s.cfg.messageAddr.val state).length = 4

/-- R156: NETWORK: the receive icon is on for states 1 and 3, the send icon for 2 and above, after the clamp to 3. -/
def Obligations.NetworkWritesReceiveThenSend : Prop :=
  (∀ w : Word, w &&& 0xFFFFFF00 = 0xB0000000 → decode w = .ok (.network (w.extractLsb' 0 8))) ∧
  ∀ (s : State) (state : BitVec 8), ∃ g,
    exec (.network state) s = .next { s with txq := s.txq ++ g, rsp := some ⟨true, 0x00⟩ } ∧
    g = iconWrite s.cfg s.cfg.netRxAddr.val (decide (state.toNat = 1 ∨ 3 ≤ state.toNat)) ++
        iconWrite s.cfg s.cfg.netTxAddr.val (decide (2 ≤ state.toNat)) ∧
    g.length = 8

/-- R157: BATTERY: the order base, base+1, base+3, base+2, the k-th write on when the clamped level is at least k. -/
def Obligations.BatteryWritesItsSegmentsInOrder : Prop :=
  (∀ w : Word, w &&& 0xFFFFFF00 = 0xC0000000 → decode w = .ok (.battery (w.extractLsb' 0 8))) ∧
  ∀ (s : State) (level : BitVec 8), ∃ g,
    exec (.battery level) s = .next { s with txq := s.txq ++ g, rsp := some ⟨true, 0x00⟩ } ∧
    g = iconWrite s.cfg s.cfg.batteryBase.val true ++
        iconWrite s.cfg (s.cfg.batteryBase.val + 1) (decide (1 ≤ level.toNat)) ++
        iconWrite s.cfg (s.cfg.batteryBase.val + 3) (decide (2 ≤ level.toNat)) ++
        iconWrite s.cfg (s.cfg.batteryBase.val + 2) (decide (3 ≤ level.toNat)) ∧
    g.length = 16

/-- R183, R223: RENDER_DIGIT: a digit 0..9 is written at the clamped position; a digit above 9 raises DIGIT_RANGE and
emits nothing. -/
def Obligations.RenderDigitWritesOrFaults : Prop :=
  (∀ w : Word, w &&& 0xFFFF0000 = 0xD0000000 →
    decode w = .ok (.renderDigit (w.extractLsb' 0 8) (w.extractLsb' 8 8))) ∧
  ∀ (s : State) (digit position : BitVec 8),
    (∀ (d : Fin 10) (p : Position), digit.toNat = d.val →
      (p = .p1 ∧ position.toNat ≤ 1) ∨ (p = .p2 ∧ position.toNat = 2) ∨ (p = .p3 ∧ position.toNat = 3) ∨
        (p = .p4 ∧ 4 ≤ position.toNat) →
      exec (.renderDigit digit position) s =
        .next { s with txq := s.txq ++ digitWrite s.cfg d p, rsp := some ⟨true, 0x00⟩ } ∧
      (digitWrite s.cfg d p).length = 4 * (popcount s.cfg.segOn[d] + popcount s.cfg.segOff[d])) ∧
    (9 < digit.toNat → exec (.renderDigit digit position) s =
      .next { s with fault := true, cause := .digitRange, rsp := some ⟨false, 0x03⟩ })

/-- R158, R224: CLOCK: four digits at positions 1 to 4, then the separator; a value above 99 raises CLOCK_RANGE and
emits nothing. -/
def Obligations.ClockWritesFourDigitsOrFaults : Prop :=
  (∀ w : Word, w &&& 0xFFFE0000 = 0xE0000000 →
    decode w = .ok (.clock (w.extractLsb' 0 8) (w.extractLsb' 8 8) (w.getLsbD 16))) ∧
  ∀ (s : State) (a b : BitVec 8) (sep : Bool),
    (∀ d1 d2 d3 d4 : Fin 10, a.toNat = 10 * d1.val + d2.val → b.toNat = 10 * d3.val + d4.val →
      ∃ g, exec (.clock a b sep) s = .next { s with txq := s.txq ++ g, rsp := some ⟨true, 0x00⟩ } ∧
        g = digitWrite s.cfg d1 .p1 ++ digitWrite s.cfg d2 .p2 ++ digitWrite s.cfg d3 .p3 ++ digitWrite s.cfg d4 .p4 ++
          iconWrite s.cfg s.cfg.sepAddr.val sep ∧
        g.length = 4 * ([d1, d2, d3, d4].map fun d => popcount s.cfg.segOn[d] + popcount s.cfg.segOff[d]).sum + 4) ∧
    (99 < a.toNat ∨ 99 < b.toNat → exec (.clock a b sep) s =
      .next { s with fault := true, cause := .clockRange, rsp := some ⟨false, 0x04⟩ })

/-! ## Update -/

/-- R200, R201, R202: UPDATE emits 1080 events: for each page the page select, the column reset pair, and the page's 132
bytes; it changes nothing but TXQ and RSP. -/
def Obligations.UpdateEmitsEveryPageInOrder : Prop :=
  decode 0x60000000 = .ok .update ∧
  ∀ s : State, ∃ g, exec .update s = .next { s with txq := s.txq ++ g, rsp := some ⟨true, 0x00⟩ } ∧
    g.length = 1080 ∧
    (∀ p : Fin 8,
      g[135 * p.val]? = some (.cmd s.cfg.pageCmd[p.val]) ∧
      g[135 * p.val + 1]? = some (.cmd (if s.cfg.colOrder = .loFirst then s.cfg.colLoCmd[0] else s.cfg.colHiCmd[0])) ∧
      g[135 * p.val + 2]? = some (.cmd (if s.cfg.colOrder = .loFirst then s.cfg.colHiCmd[0] else s.cfg.colLoCmd[0])) ∧
      ∀ c, c < 132 → g[135 * p.val + 3 + c]? = some (.data (s.fb.read (p.val * 132 + c))))

/-- R201: the data bytes UPDATE sends are exactly the framebuffer, byte 0 to byte 1055, in order. -/
def Obligations.UpdateSendsTheWholeFramebuffer : Prop :=
  ∀ (s t : State), exec .update s = .next t → s.txq = [] →
    t.txq.filterMap TxEvent.dataByte = (List.range 1056).map fun a => s.fb.read a

/-- R63: no page that UPDATE selects is the icon page, and UPDATE leaves every icon's view as it was (log entry 8). -/
def Obligations.UpdateNeverDisturbsIcons : Prop :=
  ∀ (cfg : Params) (fb : Memory) (log : List TxEvent) (c : Fin 132), cfg.wf →
    (∀ p : Fin 8, cfg.pageCmd[p.val] ≠ cfg.pageCmd[cfg.iconPage]) ∧
    iconView cfg (log ++ updateEvents cfg fb) c = iconView cfg log c

/-! ## The icon view -/

/-- R151: an icon write sets the view of its column, whatever the log held before, and leaves the view of every column that
other column commands select (log entry 8). -/
def Obligations.IconWriteSetsItsView : Prop :=
  ∀ (cfg : Params) (log : List TxEvent) (c c' : Fin 132) (on : Bool), cfg.wf →
    iconView cfg (log ++ iconWrite cfg c.val on) c = (if on = true then .on else .off) ∧
    (columnCmds cfg c' ≠ columnCmds cfg c → iconView cfg (log ++ iconWrite cfg c.val on) c' = iconView cfg log c')

/-- R181, R260: a segment in neither set of a digit keeps the view an earlier write gave it. The view is read off the log by the
column commands, so columns are told apart by those, which the premise asks to differ (log entry 8). -/
def Obligations.UnlistedSegmentKeepsItsView : Prop :=
  ∀ (cfg : Params) (log : List TxEvent) (d : Fin 10) (p : Position) (c : Fin 132), cfg.wf →
    (∀ (seg : Segment) (c' : Fin 132), segIsOn cfg d seg = true ∨ segIsOff cfg d seg = true →
      c'.val = segColumn cfg seg p → columnCmds cfg c ≠ columnCmds cfg c') →
    iconView cfg (log ++ digitWrite cfg d p) c = iconView cfg log c

/-! ## Faults and status -/

/-- R220, R221, R226: the reserved opcode takes the fault entry ILLEGAL_OPCODE, whatever its other bits. That the word decodes to
a request whose meaning takes the entry, where R221 lets the decoder raise it, is the model's division (log entry 14). -/
def Obligations.ReservedOpcodeRaisesIllegalOpcode : Prop :=
  (∀ w : Word, w &&& 0xF0000000 = 0xF0000000 → decode w = .ok (.reserved (w.extractLsb' 0 28))) ∧
  ∀ (s : State) (bits : BitVec 28),
    exec (.reserved bits) s = .next { s with fault := true, cause := .illegalOpcode, rsp := some ⟨false, 0x01⟩ }

/-- R220, R225, R226, R227: a request faults exactly on the reserved opcode, a digit above 9, or a clock value above 99;
a faulting request changes nothing but FAULT, CAUSE and RSP, and one that does not fault leaves FAULT and CAUSE alone. -/
def Obligations.FaultsAreExactAndPrecise : Prop :=
  ∀ (i : Instr) (s : State), ∃ t, exec i s = .next t ∧
    let faults := (∃ b, i = .reserved b) ∨ (∃ d p, i = .renderDigit d p ∧ 9 < d.toNat) ∨
      (∃ a b e, i = .clock a b e ∧ (99 < a.toNat ∨ 99 < b.toNat))
    (faults → ∃ c : Cause, c ≠ .none ∧
      t = { s with fault := true, cause := c, rsp := some ⟨false, (causeCode c).setWidth 8⟩ }) ∧
    (¬ faults → t.fault = s.fault ∧ t.cause = s.cause ∧ ∃ d, t.rsp = some ⟨true, d⟩)

/-- R25, R28, R29: the STATUS byte: BUSY, FAULT, two bits that are always 0, CAUSE. -/
def Obligations.StatusByteHasItsFields : Prop :=
  ∀ s : State,
    s.status.getLsbD 0 = s.busy ∧ s.status.getLsbD 1 = s.fault ∧ s.status.getLsbD 2 = false ∧
    s.status.getLsbD 3 = false ∧
    s.status.toNat / 16 = (match s.cause with
      | .none => 0 | .illegalOpcode => 1 | .reservedBits => 2 | .digitRange => 3 | .clockRange => 4)

/-! ## Whole-machine rules over all requests -/

/-- R22, R24, R77, R136, R159, R184, R203: FB is written by CLEAR, SET_PIXEL and RENDER_CHAR only, CURSOR_Y by SET_CURSOR
only, CURSOR_X by SET_CURSOR and RENDER_CHAR only, and none of these six pixel and text requests emits an event. -/
def Obligations.EachRequestKeepsToItsPath : Prop :=
  ∀ (i : Instr) (s : State), ∃ t, exec i s = .next t ∧
    (t.fb = s.fb ∨ i = .clear ∨ (∃ x y on, i = .setPixel x y on) ∨ ∃ c, i = .renderChar c) ∧
    (t.cursorX = s.cursorX ∨ (∃ x y, i = .setCursor x y) ∨ ∃ c, i = .renderChar c) ∧
    (t.cursorY = s.cursorY ∨ ∃ x y, i = .setCursor x y) ∧
    ((i = .clear ∨ (∃ x y on, i = .setPixel x y on) ∨ (∃ x y, i = .getPixel x y) ∨ (∃ p c, i = .readPageRow p c) ∨
      (∃ x y, i = .setCursor x y) ∨ ∃ c, i = .renderChar c) → t.txq = s.txq) ∧
    t.txlog = s.txlog ∧ t.cfg = s.cfg ∧ t.busy = s.busy ∧ t.requests = s.requests ∧ t.edges = s.edges ∧
    t.steady = s.steady

/-- R35, R77, R203: no request but UPDATE emits anything that depends on FB, no response but GET_PIXEL's and READ_PAGE_ROW's
depends on FB, and nothing emitted or answered depends on the cursor. -/
def Obligations.OnlyReadersRevealFramebufferAndNoneTheCursor : Prop :=
  ∀ (i : Instr) (s : State) (m : Memory) (cx : BitVec 16) (cy : BitVec 8), ∃ t u v,
    exec i s = .next t ∧ exec i { s with cursorX := cx, cursorY := cy } = .next u ∧ exec i { s with fb := m } = .next v ∧
    u.txq = t.txq ∧ u.rsp = t.rsp ∧ u.fault = t.fault ∧ u.cause = t.cause ∧
    (i ≠ .update → v.txq = t.txq) ∧
    ((∀ x y, i ≠ .getPixel x y) → (∀ p c, i ≠ .readPageRow p c) → v.rsp = t.rsp) ∧
    v.cursorX = t.cursorX ∧ v.cursorY = t.cursorY ∧ v.fault = t.fault ∧ v.cause = t.cause

/-! ## The clock edge -/

/-- R64, R80, R84, R232: an edge at which an idle block is offered a request runs the request decoded from the word, on the
state in which BUSY is set, the host has moved on and the edge has passed (the host's list and the pins: log entries 2 and 3). -/
def Obligations.StepRunsTheOfferedRequest : Prop :=
  ∀ (s : State) (w : Word) (i : Instr), s.Idle → s.nextEdge.rst = false → s.nextEdge.reqValid = true →
    s.requests.head? = some w → decode w = .ok i →
    step s = exec i { s with busy := true, requests := s.requests.tail, edges := s.edges.tail }

/-- R222, R226: an accepted word with a reserved bit set takes the fault entry RESERVED_BITS and does nothing else. -/
def Obligations.StepOnReservedBitsTakesTheFaultEntry : Prop :=
  ∀ (s : State) (w : Word), s.Idle → s.nextEdge.rst = false → s.nextEdge.reqValid = true →
    s.requests.head? = some w → decode w = .error .reservedBits →
    step s = .next { s with
      busy := true, fault := true, cause := .reservedBits, rsp := some ⟨false, 0x02⟩,
      requests := s.requests.tail, edges := s.edges.tail }

/-- R232: a transport transfer moves the head of TXQ to the end of TXLOG, and does nothing else. -/
def Obligations.TransportTransferMovesOneEvent : Prop :=
  ∀ (s : State) (e : TxEvent) (q : List TxEvent), s.busy = true → s.txq = e :: q → s.nextEdge.rst = false →
    s.nextEdge.txReady = true →
    step s = .next { s with txq := q, txlog := s.txlog ++ [e], edges := s.edges.tail }

/-- R26, R31, R226: the response is taken only when TXQ is empty, and taking it clears RSP and BUSY and nothing else: FAULT
and CAUSE stay. -/
def Obligations.ResponseTransferClearsBusy : Prop :=
  ∀ (s : State), s.busy = true → s.txq = [] → s.rsp.isSome = true → s.nextEdge.rst = false →
    s.nextEdge.rspReady = true →
    step s = .next { s with busy := false, rsp := none, edges := s.edges.tail }

/-- R262, R236: with a transport that does not accept, or a host that does not take the response, a request in progress is
held; with nothing offered, an idle block keeps every state element. -/
def Obligations.BlockHoldsWithoutATransfer : Prop :=
  (∀ s : State, s.busy = true → s.nextEdge.rst = false → s.txq ≠ [] → s.nextEdge.txReady = false →
    step s = .next { s with edges := s.edges.tail }) ∧
  (∀ s : State, s.busy = true → s.nextEdge.rst = false → s.txq = [] → s.nextEdge.rspReady = false →
    step s = .next { s with edges := s.edges.tail }) ∧
  (∀ s : State, s.Idle → s.nextEdge.rst = false → s.nextEdge.reqValid = false ∨ s.requests = [] →
    step s = .next { s with edges := s.edges.tail })

/-- R250 to R253: an edge with `rst` gives every state element of the block its reset value, whatever is in progress, and emits
nothing. That the log keeps what was accepted is log entry 1's reading, and what happens to the host's list and to the pins,
the model's own fields, is its choice (log entries 2 and 3). -/
def Obligations.ResetEdgeResetsTheBlock : Prop :=
  ∀ s : State, s.nextEdge.rst = true → ∃ t, step s = .next t ∧
    (∀ a, t.fb.read a = 0x00) ∧ t.cursorX.toNat = 0 ∧ t.cursorY.toNat = 0 ∧ t.status = 0x00 ∧ t.txq = [] ∧
    t.rsp = none ∧ t.txlog = s.txlog ∧ t.cfg = s.cfg ∧ t.requests = s.requests ∧ t.edges = s.edges.tail ∧
    t.steady = s.steady ∧ t.Idle

/-- R27: FAULT and CAUSE are sticky. While a fault is recorded no edge without `rst` clears it or accepts a request. -/
def Obligations.FaultIsStickyUntilReset : Prop :=
  ∀ s t : State, s.fault = true → s.nextEdge.rst = false → step s = .next t →
    t.fault = true ∧ t.cause = s.cause ∧ t.requests = s.requests ∧ t.fb = s.fb ∧ t.cursorX = s.cursorX ∧
    t.cursorY = s.cursorY

/-- R228 as this model represents it (log entry 7): a block halted by a fault lets a listed edge pass without a transfer, and
stops with the fault outcome when no listed edge is left that could reset it. -/
def Obligations.HaltedBlockStopsUnlessReset : Prop :=
  ∀ s : State, s.Inv → s.fault = true → s.busy = false → s.nextEdge.rst = false →
    (s.edges ≠ [] → step s = .next { s with edges := s.edges.tail }) ∧
    (s.edges = [] → step s = .fault (.haltedUntilReset s.cause))

/-- R226 to R232: at most one channel transfers at an edge: in a state that keeps the invariant no two of the three
channels are valid or ready together, and none is while `rst` is 1 (R250). -/
def Obligations.ChannelsExcludeEachOther : Prop :=
  (∀ (s : State) (rst : Bool), s.Inv →
    ¬(s.txValid rst = true ∧ s.rspValid rst = true) ∧ ¬(s.reqReady rst = true ∧ s.rspValid rst = true) ∧
    ¬(s.reqReady rst = true ∧ s.txValid rst = true)) ∧
  (∀ s : State, s.reqReady true = false ∧ s.rspValid true = false ∧ s.txValid true = false)

/-- R232, R250: the output ports. `tx_valid`, `rsp_valid` and `req_ready` are as R232's table says; while `tx_valid` is 1
`tx_dc` is 0 for a `Cmd` at the head of TXQ and 1 for a `Data`, and `tx_byte` is its byte; while `rsp_valid` is 1 `rsp_ok` and
`rsp_data` are RSP's. That the ports carry no value while not valid is the model's choice (log entry 12). -/
def Obligations.PortsCarryTheHeadEventAndTheResponse : Prop :=
  (∀ (s : State) (rst : Bool),
    (s.txValid rst = true ↔ s.txq ≠ [] ∧ rst = false) ∧
    (s.rspValid rst = true ↔ (∃ r, s.rsp = some r) ∧ s.txq = [] ∧ rst = false) ∧
    (s.reqReady rst = true ↔ s.busy = false ∧ s.fault = false ∧ rst = false)) ∧
  (∀ (s : State) (b : Byte) (q : List TxEvent),
    (s.txq = .cmd b :: q → s.txOut false = some (false, b)) ∧
    (s.txq = .data b :: q → s.txOut false = some (true, b))) ∧
  (∀ (s : State) (ok : Bool) (data : Byte), s.rsp = some ⟨ok, data⟩ → s.txq = [] →
    s.rspOut false = some ⟨ok, data⟩) ∧
  (∀ (s : State) (rst : Bool),
    (s.txValid rst = false → s.txOut rst = none) ∧ (s.rspValid rst = false → s.rspOut rst = none))

/-! ## Invariants and runs -/

/-- The invariant holds in the state after reset, which has the values of R251 (the empty log is log entry 1's). -/
def Obligations.ResetStateKeepsTheInvariant : Prop :=
  State.reset.Inv ∧ State.reset.Idle ∧ (∀ a, State.reset.fb.read a = 0x00) ∧ State.reset.cursorX = 0 ∧
  State.reset.cursorY = 0 ∧ State.reset.status = 0x00 ∧ State.reset.txlog = []

/-- Every step keeps the invariant (R26, R27, R28, R31, R226, R9). -/
def Obligations.EveryStepKeepsTheInvariant : Prop :=
  ∀ s t : State, s.Inv → step s = .next t → t.Inv

/-- R33, R75: no step changes the configuration. -/
def Obligations.NoStepChangesTheConfiguration : Prop :=
  ∀ s t : State, step s = .next t → t.cfg = s.cfg

/-- R32, R68, R72: the log only grows, by at most one event at an edge, which is the head of TXQ; and the events still
pending after the log are the same list, unless `rst` discards them or an idle block accepts a request, whose whole
group is then what is pending. So no event is reordered, dropped or duplicated, and groups stay contiguous. -/
def Obligations.ArbiterKeepsGroupsContiguous : Prop :=
  ∀ s t : State, s.Inv → step s = .next t →
    (s.nextEdge.rst = true ∧ t.txlog = s.txlog ∧ t.txq = []) ∨
    (∃ l, l.length ≤ 1 ∧ s.txq = l ++ t.txq ∧ t.txlog = s.txlog ++ l) ∨
    (∃ w, s.Idle ∧ s.requests.head? = some w ∧ t.txlog = s.txlog ∧
      serve w { s with busy := true, requests := s.requests.tail, edges := s.edges.tail } = .next t)

/-- R73, R232: with a transport and a host that are always ready, a request in progress with n pending events completes: all its
events are in the log, in order, and its response has been taken. That this takes n + 1 steps of the model rests on R232 (a
transfer happens at an edge when valid and ready are 1) and on log entry 10 (one step is one edge, with one transfer); no rule
of the spec depends on a cycle count (R262). -/
def Obligations.PendingRequestCompletes : Prop :=
  ∀ s : State, s.busy = true → s.rsp.isSome = true → s.AlwaysReady →
    core.run (s.txq.length + 1) s =
      .next { s with txlog := s.txlog ++ s.txq, txq := [], rsp := none, busy := false }

/-- R64: the single-step reading is exact. Running the host's request list request by request, each one's group appended to
the log at once, gives what the clocked machine reaches with an environment that is always ready. Where it stops because a
request would follow a fault, the clocked machine stops with the same fault outcome, in the form that log entry 7 gives R228. -/
def Obligations.ClockedMachineRefinesSingleStepReading : Prop :=
  ∀ s : State, s.Inv → s.Idle → s.AlwaysReady →
    (∀ t, serveAll s.requests s = .next t → ∃ n, core.run n s = .next t) ∧
    (∀ r, serveAll s.requests s = .fault r → ∃ n, core.run n s = .fault r)
end

