-- ==== Sys2Proof/Laws/Decode.lean ====
section
/-! SUPPORT. The fields of an assembled word (R81), and the opcode of a word that its row's mask matches (R83, R84). -/

namespace Sys2Proof

@[simp] theorem opcodeOf_assembleFields (op : BitVec 4) (e : Bool) (b a : BitVec 8) :
    opcodeOf (assembleFields op e b a) = op := by
  unfold opcodeOf assembleFields
  exact BitVec.extractLsb'_append_eq_left

@[simp] theorem fieldE_assembleFields (op : BitVec 4) (e : Bool) (b a : BitVec 8) :
    fieldE (assembleFields op e b a) = e := by
  unfold fieldE assembleFields
  simp only [BitVec.getLsbD_append]
  cases e <;> rfl

@[simp] theorem fieldB_assembleFields (op : BitVec 4) (e : Bool) (b a : BitVec 8) :
    fieldB (assembleFields op e b a) = b := by
  unfold fieldB assembleFields
  refine BitVec.eq_of_getLsbD_eq fun i hi => ?_
  simp only [BitVec.getLsbD_extractLsb', BitVec.getLsbD_append, hi, decide_true, Bool.true_and]
  rw [if_pos (by omega), if_pos (by omega), if_pos (by omega), if_neg (by omega)]
  congr 1
  omega

@[simp] theorem fieldA_assembleFields (op : BitVec 4) (e : Bool) (b a : BitVec 8) :
    fieldA (assembleFields op e b a) = a := by
  unfold fieldA assembleFields
  refine BitVec.eq_of_getLsbD_eq fun i hi => ?_
  simp only [BitVec.getLsbD_extractLsb', BitVec.getLsbD_append, hi, decide_true, Bool.true_and, Nat.zero_add, if_true]
  rw [if_pos (by omega), if_pos (by omega), if_pos (by omega)]

/-- A mask that covers the opcode keeps it: a word that the row's mask matches has the row's opcode. -/
theorem opcodeOf_masked {w mask mtch : Word} (hm : opcodeOf mask = 0xF#4) (h : w &&& mask = mtch) :
    opcodeOf w = opcodeOf mtch := by
  subst h
  have : opcodeOf (w &&& mask) = opcodeOf w &&& opcodeOf mask := by
    unfold opcodeOf
    rw [BitVec.extractLsb'_and]
  rw [this, hm]
  exact BitVec.and_allOnes.symm

theorem checked_ok {w mask mtch : Word} {i : Instr} (h : w &&& mask = mtch) : checked w mask mtch i = .ok i := if_pos h

theorem checked_cases {w mask mtch : Word} {i j : Instr} (h : checked w mask mtch i = .ok j) :
    w &&& mask = mtch ∧ j = i := by
  unfold checked at h
  split at h
  · cases h
    exact ⟨‹_›, rfl⟩
  · cases h

/-- The assembler answers words exactly for a line whose operands fit, and they are its requests' words (R87, R88). -/
theorem assemble_eq_some_iff {l : AsmLine} {ws : List Word} :
    assemble l = some ws ↔ l.wellFormed = true ∧ l.expand.map encode = ws := by
  simp [assemble]

/-- The assembler answers no words exactly for a line with an operand that does not fit (R87). -/
theorem assemble_eq_none_iff {l : AsmLine} : assemble l = none ↔ l.wellFormed = false := by
  simp [assemble]

end Sys2Proof
end

