-- ==== Sys2Proof/Laws/Emission.lean ====
section
/-! SUPPORT. The laws of the emission groups: how many events each primitive appends (R263), and that no computed icon
address leaves 0..131 (R59). -/

namespace Sys2Proof
namespace Machine
open Config

@[simp] theorem columnCmds_length (cfg : Params) (c : Fin 132) : (columnCmds cfg c).length = 2 := by
  unfold columnCmds
  split <;> rfl

@[simp] theorem iconEvents_length (cfg : Params) (c : Fin 132) (on : Bool) : (iconEvents cfg c on).length = 4 := by
  simp [iconEvents]

/-- An icon write of a column 0..131 is its four events (R150). -/
theorem iconWrite_lt (cfg : Params) {col : Nat} (h : col < 132) (on : Bool) :
    iconWrite cfg col on = iconEvents cfg ⟨col, h⟩ on := dif_pos h

/-- A column above 131 is not written (R150, decision D25). -/
theorem iconWrite_ge (cfg : Params) {col : Nat} (h : 131 < col) (on : Bool) : iconWrite cfg col on = [] :=
  dif_neg (by omega)

theorem iconWrite_length (cfg : Params) {col : Nat} (h : col < 132) (on : Bool) : (iconWrite cfg col on).length = 4 := by
  rw [iconWrite_lt cfg h, iconEvents_length]

theorem posOff_le (p : Position) : posOff p ≤ 22 := by cases p <;> decide

/-- A segment's column at a position stays within 0..131 (R59). -/
theorem segColumn_lt (cfg : Params) (s : Segment) (p : Position) : segColumn cfg s p < 132 := by
  have := posOff_le p
  have := cfg.segAddr[segNum s].isLt
  simp only [segColumn]
  omega

theorem signalColumn_lt (cfg : Params) {k : Nat} (h : k < 5) : cfg.signalBase.val + k < 132 := by
  have := cfg.signalBase.isLt
  omega

theorem batteryColumn_lt (cfg : Params) {k : Nat} (h : k < 4) : cfg.batteryBase.val + k < 132 := by
  have := cfg.batteryBase.isLt
  omega

@[simp] theorem pageEvents_length (cfg : Params) (fb : Memory) (p : Fin PAGES) : (pageEvents cfg fb p).length = 135 := by
  simp [pageEvents]

end Machine
end Sys2Proof
end

