-- ==== Sys2Proof/Laws/State.lean ====
section
/-! SUPPORT. One lemma for each field of `State` under each named update (Machine/Ops.lean), true by `rfl`, so that no later
proof unfolds a record update; and the fields of the state after reset. -/

namespace Sys2Proof
namespace Machine

variable (s : State)

@[simp] theorem setFb_fb (m : Memory) : (s.setFb m).fb = m := rfl
@[simp] theorem setFb_cursorX (m : Memory) : (s.setFb m).cursorX = s.cursorX := rfl
@[simp] theorem setFb_cursorY (m : Memory) : (s.setFb m).cursorY = s.cursorY := rfl
@[simp] theorem setFb_busy (m : Memory) : (s.setFb m).busy = s.busy := rfl
@[simp] theorem setFb_fault (m : Memory) : (s.setFb m).fault = s.fault := rfl
@[simp] theorem setFb_cause (m : Memory) : (s.setFb m).cause = s.cause := rfl
@[simp] theorem setFb_txq (m : Memory) : (s.setFb m).txq = s.txq := rfl
@[simp] theorem setFb_rsp (m : Memory) : (s.setFb m).rsp = s.rsp := rfl
@[simp] theorem setFb_txlog (m : Memory) : (s.setFb m).txlog = s.txlog := rfl
@[simp] theorem setFb_cfg (m : Memory) : (s.setFb m).cfg = s.cfg := rfl
@[simp] theorem setFb_requests (m : Memory) : (s.setFb m).requests = s.requests := rfl
@[simp] theorem setFb_edges (m : Memory) : (s.setFb m).edges = s.edges := rfl
@[simp] theorem setFb_steady (m : Memory) : (s.setFb m).steady = s.steady := rfl

@[simp] theorem setCursorX_fb (x : BitVec 16) : (s.setCursorX x).fb = s.fb := rfl
@[simp] theorem setCursorX_cursorX (x : BitVec 16) : (s.setCursorX x).cursorX = x := rfl
@[simp] theorem setCursorX_cursorY (x : BitVec 16) : (s.setCursorX x).cursorY = s.cursorY := rfl
@[simp] theorem setCursorX_busy (x : BitVec 16) : (s.setCursorX x).busy = s.busy := rfl
@[simp] theorem setCursorX_fault (x : BitVec 16) : (s.setCursorX x).fault = s.fault := rfl
@[simp] theorem setCursorX_cause (x : BitVec 16) : (s.setCursorX x).cause = s.cause := rfl
@[simp] theorem setCursorX_txq (x : BitVec 16) : (s.setCursorX x).txq = s.txq := rfl
@[simp] theorem setCursorX_rsp (x : BitVec 16) : (s.setCursorX x).rsp = s.rsp := rfl
@[simp] theorem setCursorX_txlog (x : BitVec 16) : (s.setCursorX x).txlog = s.txlog := rfl
@[simp] theorem setCursorX_cfg (x : BitVec 16) : (s.setCursorX x).cfg = s.cfg := rfl
@[simp] theorem setCursorX_requests (x : BitVec 16) : (s.setCursorX x).requests = s.requests := rfl
@[simp] theorem setCursorX_edges (x : BitVec 16) : (s.setCursorX x).edges = s.edges := rfl
@[simp] theorem setCursorX_steady (x : BitVec 16) : (s.setCursorX x).steady = s.steady := rfl

@[simp] theorem setCursorY_fb (y : BitVec 8) : (s.setCursorY y).fb = s.fb := rfl
@[simp] theorem setCursorY_cursorX (y : BitVec 8) : (s.setCursorY y).cursorX = s.cursorX := rfl
@[simp] theorem setCursorY_cursorY (y : BitVec 8) : (s.setCursorY y).cursorY = y := rfl
@[simp] theorem setCursorY_busy (y : BitVec 8) : (s.setCursorY y).busy = s.busy := rfl
@[simp] theorem setCursorY_fault (y : BitVec 8) : (s.setCursorY y).fault = s.fault := rfl
@[simp] theorem setCursorY_cause (y : BitVec 8) : (s.setCursorY y).cause = s.cause := rfl
@[simp] theorem setCursorY_txq (y : BitVec 8) : (s.setCursorY y).txq = s.txq := rfl
@[simp] theorem setCursorY_rsp (y : BitVec 8) : (s.setCursorY y).rsp = s.rsp := rfl
@[simp] theorem setCursorY_txlog (y : BitVec 8) : (s.setCursorY y).txlog = s.txlog := rfl
@[simp] theorem setCursorY_cfg (y : BitVec 8) : (s.setCursorY y).cfg = s.cfg := rfl
@[simp] theorem setCursorY_requests (y : BitVec 8) : (s.setCursorY y).requests = s.requests := rfl
@[simp] theorem setCursorY_edges (y : BitVec 8) : (s.setCursorY y).edges = s.edges := rfl
@[simp] theorem setCursorY_steady (y : BitVec 8) : (s.setCursorY y).steady = s.steady := rfl

@[simp] theorem emit_fb (g : List TxEvent) : (s.emit g).fb = s.fb := rfl
@[simp] theorem emit_cursorX (g : List TxEvent) : (s.emit g).cursorX = s.cursorX := rfl
@[simp] theorem emit_cursorY (g : List TxEvent) : (s.emit g).cursorY = s.cursorY := rfl
@[simp] theorem emit_busy (g : List TxEvent) : (s.emit g).busy = s.busy := rfl
@[simp] theorem emit_fault (g : List TxEvent) : (s.emit g).fault = s.fault := rfl
@[simp] theorem emit_cause (g : List TxEvent) : (s.emit g).cause = s.cause := rfl
@[simp] theorem emit_txq (g : List TxEvent) : (s.emit g).txq = s.txq ++ g := rfl
@[simp] theorem emit_rsp (g : List TxEvent) : (s.emit g).rsp = s.rsp := rfl
@[simp] theorem emit_txlog (g : List TxEvent) : (s.emit g).txlog = s.txlog := rfl
@[simp] theorem emit_cfg (g : List TxEvent) : (s.emit g).cfg = s.cfg := rfl
@[simp] theorem emit_requests (g : List TxEvent) : (s.emit g).requests = s.requests := rfl
@[simp] theorem emit_edges (g : List TxEvent) : (s.emit g).edges = s.edges := rfl
@[simp] theorem emit_steady (g : List TxEvent) : (s.emit g).steady = s.steady := rfl

@[simp] theorem respond_fb (ok : Bool) (d : Byte) : (s.respond ok d).fb = s.fb := rfl
@[simp] theorem respond_cursorX (ok : Bool) (d : Byte) : (s.respond ok d).cursorX = s.cursorX := rfl
@[simp] theorem respond_cursorY (ok : Bool) (d : Byte) : (s.respond ok d).cursorY = s.cursorY := rfl
@[simp] theorem respond_busy (ok : Bool) (d : Byte) : (s.respond ok d).busy = s.busy := rfl
@[simp] theorem respond_fault (ok : Bool) (d : Byte) : (s.respond ok d).fault = s.fault := rfl
@[simp] theorem respond_cause (ok : Bool) (d : Byte) : (s.respond ok d).cause = s.cause := rfl
@[simp] theorem respond_txq (ok : Bool) (d : Byte) : (s.respond ok d).txq = s.txq := rfl
@[simp] theorem respond_rsp (ok : Bool) (d : Byte) : (s.respond ok d).rsp = some ⟨ok, d⟩ := rfl
@[simp] theorem respond_txlog (ok : Bool) (d : Byte) : (s.respond ok d).txlog = s.txlog := rfl
@[simp] theorem respond_cfg (ok : Bool) (d : Byte) : (s.respond ok d).cfg = s.cfg := rfl
@[simp] theorem respond_requests (ok : Bool) (d : Byte) : (s.respond ok d).requests = s.requests := rfl
@[simp] theorem respond_edges (ok : Bool) (d : Byte) : (s.respond ok d).edges = s.edges := rfl
@[simp] theorem respond_steady (ok : Bool) (d : Byte) : (s.respond ok d).steady = s.steady := rfl

@[simp] theorem raise_fb (c : Cause) : (s.raise c).fb = s.fb := rfl
@[simp] theorem raise_cursorX (c : Cause) : (s.raise c).cursorX = s.cursorX := rfl
@[simp] theorem raise_cursorY (c : Cause) : (s.raise c).cursorY = s.cursorY := rfl
@[simp] theorem raise_busy (c : Cause) : (s.raise c).busy = s.busy := rfl
@[simp] theorem raise_fault (c : Cause) : (s.raise c).fault = true := rfl
@[simp] theorem raise_cause (c : Cause) : (s.raise c).cause = c := rfl
@[simp] theorem raise_txq (c : Cause) : (s.raise c).txq = s.txq := rfl
@[simp] theorem raise_rsp (c : Cause) : (s.raise c).rsp = some ⟨false, (causeCode c).setWidth 8⟩ := rfl
@[simp] theorem raise_txlog (c : Cause) : (s.raise c).txlog = s.txlog := rfl
@[simp] theorem raise_cfg (c : Cause) : (s.raise c).cfg = s.cfg := rfl
@[simp] theorem raise_requests (c : Cause) : (s.raise c).requests = s.requests := rfl
@[simp] theorem raise_edges (c : Cause) : (s.raise c).edges = s.edges := rfl
@[simp] theorem raise_steady (c : Cause) : (s.raise c).steady = s.steady := rfl

@[simp] theorem resetAction_fb : (s.resetAction).fb = [] := rfl
@[simp] theorem resetAction_cursorX : (s.resetAction).cursorX = 0 := rfl
@[simp] theorem resetAction_cursorY : (s.resetAction).cursorY = 0 := rfl
@[simp] theorem resetAction_busy : (s.resetAction).busy = false := rfl
@[simp] theorem resetAction_fault : (s.resetAction).fault = false := rfl
@[simp] theorem resetAction_cause : (s.resetAction).cause = Cause.none := rfl
@[simp] theorem resetAction_txq : (s.resetAction).txq = [] := rfl
@[simp] theorem resetAction_rsp : (s.resetAction).rsp = none := rfl
@[simp] theorem resetAction_txlog : (s.resetAction).txlog = s.txlog := rfl
@[simp] theorem resetAction_cfg : (s.resetAction).cfg = s.cfg := rfl
@[simp] theorem resetAction_requests : (s.resetAction).requests = s.requests := rfl
@[simp] theorem resetAction_edges : (s.resetAction).edges = s.edges := rfl
@[simp] theorem resetAction_steady : (s.resetAction).steady = s.steady := rfl

@[simp] theorem accept_fb : (s.accept).fb = s.fb := rfl
@[simp] theorem accept_cursorX : (s.accept).cursorX = s.cursorX := rfl
@[simp] theorem accept_cursorY : (s.accept).cursorY = s.cursorY := rfl
@[simp] theorem accept_busy : (s.accept).busy = true := rfl
@[simp] theorem accept_fault : (s.accept).fault = s.fault := rfl
@[simp] theorem accept_cause : (s.accept).cause = s.cause := rfl
@[simp] theorem accept_txq : (s.accept).txq = s.txq := rfl
@[simp] theorem accept_rsp : (s.accept).rsp = s.rsp := rfl
@[simp] theorem accept_txlog : (s.accept).txlog = s.txlog := rfl
@[simp] theorem accept_cfg : (s.accept).cfg = s.cfg := rfl
@[simp] theorem accept_requests : (s.accept).requests = s.requests.tail := rfl
@[simp] theorem accept_edges : (s.accept).edges = s.edges := rfl
@[simp] theorem accept_steady : (s.accept).steady = s.steady := rfl

@[simp] theorem takeTx_fb : (s.takeTx).fb = s.fb := rfl
@[simp] theorem takeTx_cursorX : (s.takeTx).cursorX = s.cursorX := rfl
@[simp] theorem takeTx_cursorY : (s.takeTx).cursorY = s.cursorY := rfl
@[simp] theorem takeTx_busy : (s.takeTx).busy = s.busy := rfl
@[simp] theorem takeTx_fault : (s.takeTx).fault = s.fault := rfl
@[simp] theorem takeTx_cause : (s.takeTx).cause = s.cause := rfl
@[simp] theorem takeTx_txq : (s.takeTx).txq = s.txq.tail := rfl
@[simp] theorem takeTx_rsp : (s.takeTx).rsp = s.rsp := rfl
@[simp] theorem takeTx_txlog : (s.takeTx).txlog = s.txlog ++ s.txq.take 1 := rfl
@[simp] theorem takeTx_cfg : (s.takeTx).cfg = s.cfg := rfl
@[simp] theorem takeTx_requests : (s.takeTx).requests = s.requests := rfl
@[simp] theorem takeTx_edges : (s.takeTx).edges = s.edges := rfl
@[simp] theorem takeTx_steady : (s.takeTx).steady = s.steady := rfl

@[simp] theorem takeRsp_fb : (s.takeRsp).fb = s.fb := rfl
@[simp] theorem takeRsp_cursorX : (s.takeRsp).cursorX = s.cursorX := rfl
@[simp] theorem takeRsp_cursorY : (s.takeRsp).cursorY = s.cursorY := rfl
@[simp] theorem takeRsp_busy : (s.takeRsp).busy = false := rfl
@[simp] theorem takeRsp_fault : (s.takeRsp).fault = s.fault := rfl
@[simp] theorem takeRsp_cause : (s.takeRsp).cause = s.cause := rfl
@[simp] theorem takeRsp_txq : (s.takeRsp).txq = s.txq := rfl
@[simp] theorem takeRsp_rsp : (s.takeRsp).rsp = none := rfl
@[simp] theorem takeRsp_txlog : (s.takeRsp).txlog = s.txlog := rfl
@[simp] theorem takeRsp_cfg : (s.takeRsp).cfg = s.cfg := rfl
@[simp] theorem takeRsp_requests : (s.takeRsp).requests = s.requests := rfl
@[simp] theorem takeRsp_edges : (s.takeRsp).edges = s.edges := rfl
@[simp] theorem takeRsp_steady : (s.takeRsp).steady = s.steady := rfl

@[simp] theorem passEdge_fb : (s.passEdge).fb = s.fb := rfl
@[simp] theorem passEdge_cursorX : (s.passEdge).cursorX = s.cursorX := rfl
@[simp] theorem passEdge_cursorY : (s.passEdge).cursorY = s.cursorY := rfl
@[simp] theorem passEdge_busy : (s.passEdge).busy = s.busy := rfl
@[simp] theorem passEdge_fault : (s.passEdge).fault = s.fault := rfl
@[simp] theorem passEdge_cause : (s.passEdge).cause = s.cause := rfl
@[simp] theorem passEdge_txq : (s.passEdge).txq = s.txq := rfl
@[simp] theorem passEdge_rsp : (s.passEdge).rsp = s.rsp := rfl
@[simp] theorem passEdge_txlog : (s.passEdge).txlog = s.txlog := rfl
@[simp] theorem passEdge_cfg : (s.passEdge).cfg = s.cfg := rfl
@[simp] theorem passEdge_requests : (s.passEdge).requests = s.requests := rfl
@[simp] theorem passEdge_edges : (s.passEdge).edges = s.edges.tail := rfl
@[simp] theorem passEdge_steady : (s.passEdge).steady = s.steady := rfl

@[simp] theorem complete_fb : (s.complete).fb = s.fb := rfl
@[simp] theorem complete_cursorX : (s.complete).cursorX = s.cursorX := rfl
@[simp] theorem complete_cursorY : (s.complete).cursorY = s.cursorY := rfl
@[simp] theorem complete_busy : (s.complete).busy = false := rfl
@[simp] theorem complete_fault : (s.complete).fault = s.fault := rfl
@[simp] theorem complete_cause : (s.complete).cause = s.cause := rfl
@[simp] theorem complete_txq : (s.complete).txq = [] := rfl
@[simp] theorem complete_rsp : (s.complete).rsp = none := rfl
@[simp] theorem complete_txlog : (s.complete).txlog = s.txlog ++ s.txq := rfl
@[simp] theorem complete_cfg : (s.complete).cfg = s.cfg := rfl
@[simp] theorem complete_requests : (s.complete).requests = s.requests := rfl
@[simp] theorem complete_edges : (s.complete).edges = s.edges := rfl
@[simp] theorem complete_steady : (s.complete).steady = s.steady := rfl

@[simp] theorem offerNext_fb (w : Word) : (s.offerNext w).fb = s.fb := rfl
@[simp] theorem offerNext_cursorX (w : Word) : (s.offerNext w).cursorX = s.cursorX := rfl
@[simp] theorem offerNext_cursorY (w : Word) : (s.offerNext w).cursorY = s.cursorY := rfl
@[simp] theorem offerNext_busy (w : Word) : (s.offerNext w).busy = false := rfl
@[simp] theorem offerNext_fault (w : Word) : (s.offerNext w).fault = false := rfl
@[simp] theorem offerNext_cause (w : Word) : (s.offerNext w).cause = Cause.none := rfl
@[simp] theorem offerNext_txq (w : Word) : (s.offerNext w).txq = [] := rfl
@[simp] theorem offerNext_rsp (w : Word) : (s.offerNext w).rsp = none := rfl
@[simp] theorem offerNext_txlog (w : Word) : (s.offerNext w).txlog = s.txlog ++ s.txq := rfl
@[simp] theorem offerNext_cfg (w : Word) : (s.offerNext w).cfg = s.cfg := rfl
@[simp] theorem offerNext_requests (w : Word) : (s.offerNext w).requests = w :: s.requests := rfl
@[simp] theorem offerNext_edges (w : Word) : (s.offerNext w).edges = Edge.ready :: s.edges := rfl
@[simp] theorem offerNext_steady (w : Word) : (s.offerNext w).steady = s.steady := rfl

@[simp] theorem reset_fb : State.reset.fb = [] := rfl
@[simp] theorem reset_cursorX : State.reset.cursorX = 0 := rfl
@[simp] theorem reset_cursorY : State.reset.cursorY = 0 := rfl
@[simp] theorem reset_busy : State.reset.busy = false := rfl
@[simp] theorem reset_fault : State.reset.fault = false := rfl
@[simp] theorem reset_cause : State.reset.cause = Cause.none := rfl
@[simp] theorem reset_txq : State.reset.txq = [] := rfl
@[simp] theorem reset_rsp : State.reset.rsp = none := rfl
@[simp] theorem reset_txlog : State.reset.txlog = [] := rfl
@[simp] theorem reset_cfg : State.reset.cfg = Config.installed.val := rfl
@[simp] theorem reset_requests : State.reset.requests = [] := rfl
@[simp] theorem reset_edges : State.reset.edges = [] := rfl
@[simp] theorem reset_steady : State.reset.steady = Edge.ready := rfl

end Machine
end Sys2Proof
end

