-- ==== Sys2Proof/Laws/Memory.lean ====
section
/-! SUPPORT. The laws of the framebuffer: read after write, the canonical form and that every operation keeps it, and that
canonical framebuffers that read alike are equal. -/

namespace Sys2Proof
namespace Machine
open Config

@[simp] theorem read_nil (a : Nat) : Memory.read [] a = 0#8 := rfl

@[simp] theorem read_cons (k : Nat) (v : Byte) (m : Memory) (a : Nat) :
    Memory.read ((k, v) :: m) a = if k = a then v else m.read a := rfl

@[simp] theorem read_cleared (a : Nat) : Memory.cleared.read a = 0#8 := rfl

theorem wfFrom_cons {lo k : Nat} {v : Byte} {m : Memory} :
    Memory.wfFrom lo ((k, v) :: m) = true ↔ lo ≤ k ∧ k < 1056 ∧ v ≠ 0#8 ∧ Memory.wfFrom (k + 1) m = true := by
  simp [Memory.wfFrom, fbResetByte, and_assoc]

/-- Nothing is listed below the bound. -/
theorem read_below {lo a : Nat} {m : Memory} (h : Memory.wfFrom lo m = true) (ha : a < lo) : m.read a = 0#8 := by
  induction m generalizing lo with
  | nil => rfl
  | cons e m ih =>
    obtain ⟨k, v⟩ := e
    obtain ⟨h1, -, -, h4⟩ := wfFrom_cons.mp h
    rw [read_cons, if_neg (by omega), ih h4 (by omega)]

theorem wfFrom_mono {lo lo' : Nat} {m : Memory} (h : Memory.wfFrom lo m = true) (hl : lo' ≤ lo) :
    Memory.wfFrom lo' m = true := by
  cases m with
  | nil => rfl
  | cons e m =>
    obtain ⟨k, v⟩ := e
    rw [wfFrom_cons] at h ⊢
    exact ⟨by omega, h.2⟩

/-- No byte exists above address 1055 (R50): a canonical framebuffer lists none. -/
theorem read_beyond {lo a : Nat} {m : Memory} (h : Memory.wfFrom lo m = true) (ha : 1056 ≤ a) : m.read a = 0#8 := by
  induction m generalizing lo with
  | nil => rfl
  | cons e m ih =>
    obtain ⟨k, v⟩ := e
    obtain ⟨-, h2, -, h4⟩ := wfFrom_cons.mp h
    rw [read_cons, if_neg (by omega), ih h4]

theorem write_wfFrom {lo a : Nat} {m : Memory} (v : Byte) (h : Memory.wfFrom lo m = true) (hlo : lo ≤ a)
    (ha : a < 1056) : Memory.wfFrom lo (m.write a v) = true := by
  induction m generalizing lo with
  | nil =>
    unfold Memory.write
    split
    · rfl
    · exact wfFrom_cons.mpr ⟨hlo, ha, ‹_›, rfl⟩
  | cons e m ih =>
    obtain ⟨k, w⟩ := e
    obtain ⟨h1, h2, h3, h4⟩ := wfFrom_cons.mp h
    unfold Memory.write
    split
    · split
      · exact h
      · exact wfFrom_cons.mpr ⟨hlo, ha, ‹_›, wfFrom_cons.mpr ⟨by omega, h2, h3, h4⟩⟩
    · split
      · subst_vars
        split
        · exact wfFrom_mono h4 (by omega)
        · exact wfFrom_cons.mpr ⟨hlo, ha, ‹_›, h4⟩
      · exact wfFrom_cons.mpr ⟨h1, h2, h3, ih h4 (by omega)⟩

/-- A write keeps the canonical form. -/
theorem write_wf {a : Nat} {m : Memory} (v : Byte) (h : m.wf = true) (ha : a < 1056) : (m.write a v).wf = true :=
  write_wfFrom v h (Nat.zero_le a) ha

@[simp] theorem cleared_wf : Memory.cleared.wf = true := rfl

/-- A read after a write: the written byte at its address, the old byte everywhere else. -/
theorem read_write {lo : Nat} {m : Memory} (h : Memory.wfFrom lo m = true) (a b : Nat) (v : Byte) :
    (m.write a v).read b = if a = b then v else m.read b := by
  induction m generalizing lo with
  | nil =>
    unfold Memory.write
    split
    · simp_all [fbResetByte]
    · rfl
  | cons e m ih =>
    obtain ⟨k, w⟩ := e
    obtain ⟨h1, h2, h3, h4⟩ := wfFrom_cons.mp h
    unfold Memory.write
    split
    · split
      · subst_vars
        split
        · subst_vars
          rw [read_cons, if_neg (by omega), read_below h4 (by omega)]
          rfl
        · rfl
      · rfl
    · split
      · subst_vars
        split
        · subst_vars
          split
          · subst_vars
            rw [read_below h4 (by omega)]
            rfl
          · rw [read_cons, if_neg ‹_›]
        · rw [read_cons, read_cons]
          split <;> rfl
      · rw [read_cons, read_cons, ih h4]
        split <;> split <;> first | rfl | omega

/-- A write leaves every other byte alone. -/
theorem read_write_other {m : Memory} (h : m.wf = true) {a b : Nat} (hab : a ≠ b) (v : Byte) :
    (m.write a v).read b = m.read b := by
  rw [read_write h, if_neg hab]

/-- A write is read back. -/
theorem read_write_same {m : Memory} (h : m.wf = true) (a : Nat) (v : Byte) : (m.write a v).read a = v := by
  rw [read_write h, if_pos rfl]

theorem wfFrom_ext {lo : Nat} {m n : Memory} (hm : Memory.wfFrom lo m = true) (hn : Memory.wfFrom lo n = true)
    (h : ∀ a, m.read a = n.read a) : m = n := by
  induction m generalizing lo n with
  | nil =>
    cases n with
    | nil => rfl
    | cons e n =>
      obtain ⟨k, v⟩ := e
      have hk := h k
      rw [read_cons, if_pos rfl] at hk
      exact absurd hk.symm (wfFrom_cons.mp hn).2.2.1
  | cons e m ih =>
    obtain ⟨k, v⟩ := e
    obtain ⟨h1, h2, h3, h4⟩ := wfFrom_cons.mp hm
    cases n with
    | nil =>
      have hk := h k
      rw [read_cons, if_pos rfl] at hk
      exact absurd hk h3
    | cons f n =>
      obtain ⟨l, w⟩ := f
      obtain ⟨g1, g2, g3, g4⟩ := wfFrom_cons.mp hn
      have hkl : k = l := by
        have hk := h k
        have hl := h l
        simp only [read_cons, if_true] at hk hl
        rcases Nat.lt_trichotomy k l with hlt | heq | hgt
        · rw [if_neg (by omega), read_below g4 (by omega)] at hk
          exact absurd hk h3
        · exact heq
        · rw [if_neg (by omega), read_below h4 (by omega)] at hl
          exact absurd hl.symm g3
      subst hkl
      have hvw : v = w := by simpa using h k
      subst hvw
      rw [ih h4 g4 fun a => ?_]
      rcases Nat.lt_or_ge a (k + 1) with ha | ha
      · rw [read_below h4 ha, read_below g4 ha]
      · have := h a
        rwa [read_cons, read_cons, if_neg (by omega), if_neg (by omega)] at this

/-- Canonical framebuffers that read alike are equal. -/
theorem wf_ext {m n : Memory} (hm : m.wf = true) (hn : n.wf = true) (h : ∀ a, m.read a = n.read a) : m = n :=
  wfFrom_ext hm hn h

end Machine
end Sys2Proof
end

