-- ==== Sys2Proof/Laws/Pixel.lean ====
section
/-! SUPPORT. The laws of pixels: the address generator is one to one (R56), `PixelWrite` changes exactly its pixel (R55),
and what the glyph loops of R132 write. -/

namespace Sys2Proof
namespace Machine
open Config

theorem inB_iff {x y : Nat} : inB x y = true ↔ x < 132 ∧ y < 64 := by simp [inB]

theorem inB_false_iff {x y : Nat} : inB x y = false ↔ ¬(x < 132 ∧ y < 64) := by
  rw [← inB_iff, Bool.not_eq_true]

/-- An in-bounds pixel's byte exists (R50, R52). -/
theorem fbAddr_lt {x y : Nat} (h : inB x y = true) : fbAddr x y < 1056 := by
  have := inB_iff.mp h
  simp only [fbAddr, fbByte, WIDTH, PAGE_H]
  omega

theorem fbBit_lt (x y : Nat) : fbBit x y < 8 := Nat.mod_lt _ (by decide)

/-- Distinct in-bounds pixels have distinct (byte, bit) pairs (R56). -/
theorem addr_bit_inj {x y x' y' : Nat} (h : inB x y = true) (h' : inB x' y' = true)
    (ha : fbAddr x y = fbAddr x' y') (hb : fbBit x y = fbBit x' y') : x = x' ∧ y = y' := by
  have := inB_iff.mp h
  have := inB_iff.mp h'
  simp only [fbAddr, fbByte, fbBit, WIDTH, PAGE_H] at ha hb
  omega

/-- Every (byte, bit) pair is some in-bounds pixel's (R56). -/
theorem addr_bit_surj {a k : Nat} (ha : a < 1056) (hk : k < 8) :
    ∃ x y, inB x y = true ∧ fbAddr x y = a ∧ fbBit x y = k :=
  ⟨a % 132, a / 132 * 8 + k, inB_iff.mpr (by omega), by simp only [fbAddr, fbByte, WIDTH, PAGE_H]; omega,
    by simp only [fbBit, PAGE_H]; omega⟩

theorem withBit_getLsbD (b : Byte) {k j : Nat} (hj : j < 8) (on : Bool) :
    (withBit b k on).getLsbD j = if j = k then on else b.getLsbD j := by
  cases on <;> by_cases hjk : j = k <;>
    simp [withBit, hj, hjk] <;> omega

/-- `PixelWrite` keeps the canonical form. -/
theorem pixelWrite_wf {fb : Memory} (h : fb.wf = true) (x y : Nat) (on : Bool) : (pixelWrite fb x y on).wf = true := by
  unfold pixelWrite
  split
  · exact write_wf _ h (fbAddr_lt ‹_›)
  · exact h

/-- After `PixelWrite` the written pixel, if it is in bounds, holds the written value, and every other is as before. -/
theorem pixel_pixelWrite {fb : Memory} (h : fb.wf = true) (x y : Nat) (on : Bool) (x' y' : Nat) :
    pixel (pixelWrite fb x y on) x' y' =
      if inB x y = true ∧ x' = x ∧ y' = y then on else pixel fb x' y' := by
  unfold pixelWrite
  by_cases hb : inB x y = true
  · rw [if_pos hb]
    by_cases hb' : inB x' y' = true
    · simp only [pixel, if_pos hb', hb, true_and]
      by_cases ha : fbAddr x y = fbAddr x' y'
      · rw [← ha, read_write_same h, withBit_getLsbD _ (fbBit_lt x' y')]
        by_cases hk : fbBit x' y' = fbBit x y
        · obtain ⟨rfl, rfl⟩ := addr_bit_inj hb hb' ha hk.symm
          simp
        · have hne : ¬(x' = x ∧ y' = y) := fun e => hk (by rw [e.1, e.2])
          rw [if_neg hk, if_neg hne]
      · have hne : ¬(x' = x ∧ y' = y) := fun e => ha (by rw [e.1, e.2])
        rw [read_write_other h ha, if_neg hne]
    · have hne : ¬(x' = x ∧ y' = y) := fun e => hb' (by rw [e.1, e.2]; exact hb)
      simp [pixel, hb', hne]
  · rw [if_neg hb, if_neg fun e => hb e.1]

/-- `PixelWrite` reaches no byte but the one its address generator forms, and none out of bounds (R52, R55). -/
theorem read_pixelWrite_other {fb : Memory} (h : fb.wf = true) {x y a : Nat} (on : Bool)
    (ha : inB x y = true → a ≠ fbAddr x y) : (pixelWrite fb x y on).read a = fb.read a := by
  unfold pixelWrite
  split
  · exact read_write_other h (Ne.symm (ha ‹_›)) _
  · rfl

/-- Canonical framebuffers with the same pixels are equal. -/
theorem pixel_ext {m n : Memory} (hm : m.wf = true) (hn : n.wf = true)
    (h : ∀ x y, inB x y = true → pixel m x y = pixel n x y) : m = n := by
  refine wf_ext hm hn fun a => ?_
  rcases Nat.lt_or_ge a 1056 with ha | ha
  · refine BitVec.eq_of_getLsbD_eq fun k hk => ?_
    obtain ⟨x, y, hb, rfl, rfl⟩ := addr_bit_surj ha hk
    simpa [pixel, hb] using h x y hb
  · rw [read_beyond hm ha, read_beyond hn ha]

/-! ### The glyph loops -/

theorem drawRows_wf {fb : Memory} (h : fb.wf = true) (x y : Nat) (col : Byte) (rs : List Nat) :
    (drawRows fb x y col rs).wf = true := by
  induction rs generalizing fb with
  | nil => exact h
  | cons r rs ih => exact ih (pixelWrite_wf h x (y + r) _)

theorem pixel_drawRows {fb : Memory} (h : fb.wf = true) (x y : Nat) (col : Byte) (rs : List Nat) (x' y' : Nat) :
    pixel (drawRows fb x y col rs) x' y' =
      if inB x' y' = true ∧ x' = x ∧ y ≤ y' ∧ y' - y ∈ rs then col.getLsbD (y' - y) else pixel fb x' y' := by
  induction rs generalizing fb with
  | nil => simp [drawRows]
  | cons r rs ih =>
    have := ih (pixelWrite_wf h x (y + r) (col.getLsbD r))
    simp only [drawRows, List.foldl_cons] at this ⊢
    rw [this, pixel_pixelWrite h]
    by_cases hx : x' = x
    · subst hx
      by_cases hy : y' = y + r
      · subst hy
        simp only [Nat.add_sub_cancel_left, List.mem_cons, true_or, and_true, true_and, Nat.le_add_right]
        by_cases hb : inB x' (y + r) = true
        · simp [hb]
        · simp [hb]
      · have hne : y ≤ y' → y' - y ≠ r := fun _ _ => hy (by omega)
        by_cases hle : y ≤ y'
        · simp [hy, hle, hne hle]
        · simp [hy, hle]
    · simp [hx]

theorem read_drawRows_other {fb : Memory} (h : fb.wf = true) {x y a : Nat} (col : Byte) (rs : List Nat)
    (ha : ∀ r ∈ rs, inB x (y + r) = true → a ≠ fbAddr x (y + r)) : (drawRows fb x y col rs).read a = fb.read a := by
  induction rs generalizing fb with
  | nil => rfl
  | cons r rs ih =>
    have := ih (pixelWrite_wf h x (y + r) (col.getLsbD r)) fun q hq => ha q (List.mem_cons_of_mem _ hq)
    simp only [drawRows, List.foldl_cons] at this ⊢
    rw [this, read_pixelWrite_other h _ (ha r List.mem_cons_self)]

theorem drawColumn_wf {fb : Memory} (h : fb.wf = true) (x y : Nat) (col : Byte) : (drawColumn fb x y col).wf = true :=
  drawRows_wf h x y col _

/-- A glyph column writes its 8 pixels, those in bounds, each with its own bit, and no other pixel (R132). -/
theorem pixel_drawColumn {fb : Memory} (h : fb.wf = true) (x y : Nat) (col : Byte) (x' y' : Nat) :
    pixel (drawColumn fb x y col) x' y' =
      if inB x' y' = true ∧ x' = x ∧ y ≤ y' ∧ y' < y + 8 then col.getLsbD (y' - y) else pixel fb x' y' := by
  unfold drawColumn
  rw [pixel_drawRows h]
  have : (y ≤ y' ∧ y' - y ∈ ([0, 1, 2, 3, 4, 5, 6, 7] : List Nat)) ↔ (y ≤ y' ∧ y' < y + 8) := by
    simp only [List.mem_cons, List.not_mem_nil, or_false]
    omega
  simp only [this]

/-- The columns of a glyph are disjoint, so a pixel of the drawn cell holds the bit of its own column, and a pixel
outside the cell is as before (R132). -/
theorem drawGlyph_spec {fb : Memory} (h : fb.wf = true) (x y : Nat) (glyph : Fin FONT_W → Byte) :
    (drawGlyph fb x y glyph).wf = true ∧
    (∀ (i : Fin FONT_W) (y' : Nat), inB (x + i.val) y' = true → y ≤ y' → y' < y + 8 →
      pixel (drawGlyph fb x y glyph) (x + i.val) y' = (glyph i).getLsbD (y' - y)) ∧
    (∀ x' y', ¬(inB x' y' = true ∧ x ≤ x' ∧ x' < x + 5 ∧ y ≤ y' ∧ y' < y + 8) →
      pixel (drawGlyph fb x y glyph) x' y' = pixel fb x' y') := by
  have h0 := drawColumn_wf h (x + 0) y (glyph 0)
  have h1 := drawColumn_wf h0 (x + 1) y (glyph 1)
  have h2 := drawColumn_wf h1 (x + 2) y (glyph 2)
  have h3 := drawColumn_wf h2 (x + 3) y (glyph 3)
  have hd : drawGlyph fb x y glyph =
      drawColumn (drawColumn (drawColumn (drawColumn (drawColumn fb (x + 0) y (glyph 0)) (x + 1) y (glyph 1))
        (x + 2) y (glyph 2)) (x + 3) y (glyph 3)) (x + 4) y (glyph 4) := rfl
  refine ⟨hd ▸ drawColumn_wf h3 _ _ _, ?_, ?_⟩
  · intro i y' hb hy hy'
    rw [hd, pixel_drawColumn h3, pixel_drawColumn h2, pixel_drawColumn h1, pixel_drawColumn h0, pixel_drawColumn h]
    match i with
    | 0 => simp_all
    | 1 => simp_all
    | 2 => simp_all
    | 3 => simp_all
    | 4 => simp_all
  · intro x' y' hn
    rw [hd, pixel_drawColumn h3, pixel_drawColumn h2, pixel_drawColumn h1, pixel_drawColumn h0, pixel_drawColumn h]
    have aux : ∀ i, i < 5 → ¬(inB x' y' = true ∧ x' = x + i ∧ y ≤ y' ∧ y' < y + 8) := fun i hi e =>
      hn ⟨e.1, by omega, by omega, e.2.2⟩
    rw [if_neg (aux 4 (by decide)), if_neg (aux 3 (by decide)), if_neg (aux 2 (by decide)), if_neg (aux 1 (by decide)),
      if_neg (aux 0 (by decide))]

/-- Drawing a glyph reaches no byte but those its in-bounds pixels lie in. -/
theorem read_drawGlyph_other {fb : Memory} (h : fb.wf = true) {x y a : Nat} (glyph : Fin FONT_W → Byte)
    (ha : ∀ i r, i < 5 → r < 8 → inB (x + i) (y + r) = true → a ≠ fbAddr (x + i) (y + r)) :
    (drawGlyph fb x y glyph).read a = fb.read a := by
  have hr : ∀ r ∈ ([0, 1, 2, 3, 4, 5, 6, 7] : List Nat), r < 8 := by decide
  have aux : ∀ {m : Memory}, m.wf = true → ∀ i, i < 5 → ∀ col : Byte,
      (drawColumn m (x + i) y col).read a = m.read a := fun hm i hi col =>
    read_drawRows_other hm col _ fun r hm => ha i r hi (hr r hm)
  have h0 := drawColumn_wf h (x + 0) y (glyph 0)
  have h1 := drawColumn_wf h0 (x + 1) y (glyph 1)
  have h2 := drawColumn_wf h1 (x + 2) y (glyph 2)
  have h3 := drawColumn_wf h2 (x + 3) y (glyph 3)
  have hd : drawGlyph fb x y glyph =
      drawColumn (drawColumn (drawColumn (drawColumn (drawColumn fb (x + 0) y (glyph 0)) (x + 1) y (glyph 1))
        (x + 2) y (glyph 2)) (x + 3) y (glyph 3)) (x + 4) y (glyph 4) := rfl
  rw [hd, aux h3 4 (by decide), aux h2 3 (by decide), aux h1 2 (by decide), aux h0 1 (by decide), aux h 0 (by decide)]

end Machine
end Sys2Proof
end

