-- ==== Sys2Proof/Laws/Exec.lean ====
section
/-! SUPPORT. What accepting a request can do, said once for all requests: every later proof cites `exec_served` or
`serve_served` instead of unfolding a meaning. -/

namespace Sys2Proof
namespace Machine
open Config

/-- What a served request leaves alone, and the two ways it can end: with `ok`, or in the fault entry (R64, R226). -/
structure Served (s t : State) : Prop where
  busy : t.busy = s.busy
  txlog : t.txlog = s.txlog
  cfg : t.cfg = s.cfg
  requests : t.requests = s.requests
  edges : t.edges = s.edges
  steady : t.steady = s.steady
  wf : s.fb.wf = true → t.fb.wf = true
  group : ∃ g, t.txq = s.txq ++ g
  ends : (t.fault = s.fault ∧ t.cause = s.cause ∧ ∃ d, t.rsp = some ⟨true, d⟩) ∨ ∃ c, c ≠ Cause.none ∧ t = s.raise c

/-- A request that only emits a group and responds. -/
theorem served_emit (s : State) (g : List TxEvent) (d : Byte) : Served s ((s.emit g).respond true d) :=
  ⟨rfl, rfl, rfl, rfl, rfl, rfl, id, ⟨g, rfl⟩, .inl ⟨rfl, rfl, d, rfl⟩⟩

/-- A request that only responds. -/
theorem served_respond (s : State) (d : Byte) : Served s (s.respond true d) :=
  ⟨rfl, rfl, rfl, rfl, rfl, rfl, id, ⟨[], by simp⟩, .inl ⟨rfl, rfl, d, rfl⟩⟩

/-- A request that raises a fault. -/
theorem served_raise (s : State) {c : Cause} (h : c ≠ .none) : Served s (s.raise c) :=
  ⟨rfl, rfl, rfl, rfl, rfl, rfl, id, ⟨[], by simp⟩, .inr ⟨c, h, rfl⟩⟩

/-- A request that replaces FB by one that keeps the canonical form, and responds. -/
theorem served_setFb {s : State} {m : Memory} (h : s.fb.wf = true → m.wf = true) (d : Byte) :
    Served s ((s.setFb m).respond true d) :=
  ⟨rfl, rfl, rfl, rfl, rfl, rfl, h, ⟨[], by simp⟩, .inl ⟨rfl, rfl, d, rfl⟩⟩

theorem served_renderChar (code : BitVec 8) (s : State) : ∃ t, execRenderChar code s = .next t ∧ Served s t := by
  unfold execRenderChar
  split
  · exact ⟨_, rfl, rfl, rfl, rfl, rfl, rfl, rfl, fun h => (drawGlyph_spec h _ _ _).1, ⟨[], by simp⟩,
      .inl ⟨rfl, rfl, _, rfl⟩⟩
  · exact ⟨_, rfl, served_respond s _⟩

theorem served_clock (a b : BitVec 8) (sep : Bool) (s : State) : ∃ t, execClock a b sep s = .next t ∧ Served s t := by
  unfold execClock
  split
  · exact ⟨_, rfl, served_emit s _ _⟩
  · exact ⟨_, rfl, served_raise s (by decide)⟩

theorem served_renderDigit (d p : BitVec 8) (s : State) : ∃ t, execRenderDigit d p s = .next t ∧ Served s t := by
  unfold execRenderDigit
  split
  · exact ⟨_, rfl, served_emit s _ _⟩
  · exact ⟨_, rfl, served_raise s (by decide)⟩

/-- Every request, in every state, answers a next state. -/
theorem exec_served (i : Instr) (s : State) : ∃ t, exec i s = .next t ∧ Served s t := by
  cases i with
  | clear => exact ⟨_, rfl, served_setFb (fun _ => rfl) _⟩
  | setPixel x y on => exact ⟨_, rfl, served_setFb (fun h => pixelWrite_wf h _ _ _) _⟩
  | getPixel x y => exact ⟨_, rfl, served_respond s _⟩
  | readPageRow page col => exact ⟨_, rfl, served_respond s _⟩
  | setCursor x0 y0 =>
    exact ⟨_, rfl, rfl, rfl, rfl, rfl, rfl, rfl, id, ⟨[], by simp⟩, .inl ⟨rfl, rfl, _, rfl⟩⟩
  | renderChar code => exact served_renderChar code s
  | update => exact ⟨_, rfl, served_emit s _ _⟩
  | iconWrite col on => exact ⟨_, rfl, served_emit s _ _⟩
  | signal level => exact ⟨_, rfl, served_emit s _ _⟩
  | bell state => exact ⟨_, rfl, served_emit s _ _⟩
  | message state => exact ⟨_, rfl, served_emit s _ _⟩
  | network state => exact ⟨_, rfl, served_emit s _ _⟩
  | battery level => exact ⟨_, rfl, served_emit s _ _⟩
  | renderDigit digit position => exact served_renderDigit digit position s
  | clock a b sep => exact served_clock a b sep s
  | reserved bits => exact ⟨_, rfl, served_raise s (by decide)⟩

/-- Every accepted word, decoded or not, answers a next state. -/
theorem serve_served (w : Word) (s : State) : ∃ t, serve w s = .next t ∧ Served s t := by
  unfold serve
  split
  · exact exec_served _ s
  · exact ⟨_, rfl, served_raise s (by decide)⟩

end Machine
end Sys2Proof
end

