-- ==== Sys2Proof/Laws/PerInstr.lean ====
section
/-! SUPPORT. Statements made for each constructor of `Instr`. Family `RowWord`: the encoder's word carries the row's match
under the row's mask (R83), so its opcode is the row's and its reserved-zero bits are 0 (R87). -/

namespace Sys2Proof
namespace Laws
namespace RowWord

/-- The word of the request is a word of its row (R83, R84). -/
def Statement (i : Instr) : Prop := encode i &&& rowMask i = rowMatch i

/-- A word under a mask, both written by their fields: the masked word by its fields. -/
theorem fields_masked (op : BitVec 4) (e : Bool) (b a : BitVec 8) (me : Bool) (mb ma : BitVec 8) :
    assembleFields op e b a &&& (0xF#4 ++ (0x7FF#11 ++ (BitVec.ofBool me ++ (mb ++ ma)))) =
      op ++ (0#11 ++ (BitVec.ofBool (e && me) ++ ((b &&& mb) ++ (a &&& ma)))) := by
  unfold assembleFields
  rw [BitVec.and_append, BitVec.and_append, BitVec.and_append, BitVec.and_append,
    show op &&& 0xF#4 = op from BitVec.and_allOnes, show 0#11 &&& 0x7FF#11 = 0#11 from rfl]
  cases e <;> cases me <;> rfl

/-- The row's mask keeps no operand bit, so the masked word is the row's match. -/
theorem row_of_fields {i : Instr} {op : BitVec 4} {e : Bool} {b a : BitVec 8} (me : Bool) (mb ma : BitVec 8)
    (hw : encode i = assembleFields op e b a)
    (hm : rowMask i = 0xF#4 ++ (0x7FF#11 ++ (BitVec.ofBool me ++ (mb ++ ma))))
    (he : (e && me) = false) (hb : b &&& mb = 0#8) (ha : a &&& ma = 0#8)
    (hr : rowMatch i = op ++ (0#11 ++ (0#1 ++ (0#8 ++ 0#8)))) : Statement i := by
  unfold Statement
  rw [hw, hm, hr, fields_masked, he, hb, ha]
  rfl

theorem clear : Statement .clear := show encode .clear &&& rowMask .clear = rowMatch .clear by decide

theorem update : Statement .update := show encode .update &&& rowMask .update = rowMatch .update by decide

theorem setPixel (x y : BitVec 8) (on : Bool) : Statement (.setPixel x y on) :=
  row_of_fields false 0 0 rfl (by simp only [rowMask]; decide) (Bool.and_false _) BitVec.and_zero BitVec.and_zero
    (by simp only [rowMatch]; decide)

theorem getPixel (x y : BitVec 8) : Statement (.getPixel x y) :=
  row_of_fields true 0 0 rfl (by simp only [rowMask]; decide) (rfl) BitVec.and_zero BitVec.and_zero
    (by simp only [rowMatch]; decide)

theorem readPageRow (page col : BitVec 8) : Statement (.readPageRow page col) :=
  row_of_fields true 0 0 rfl (by simp only [rowMask]; decide) (rfl) BitVec.and_zero BitVec.and_zero
    (by simp only [rowMatch]; decide)

theorem setCursor (x0 y0 : BitVec 8) : Statement (.setCursor x0 y0) :=
  row_of_fields true 0 0 rfl (by simp only [rowMask]; decide) (rfl) BitVec.and_zero BitVec.and_zero
    (by simp only [rowMatch]; decide)

theorem renderChar (code : BitVec 8) : Statement (.renderChar code) :=
  row_of_fields true 0xFF 0 rfl (by simp only [rowMask]; decide) (rfl) BitVec.zero_and BitVec.and_zero
    (by simp only [rowMatch]; decide)

theorem iconWrite (col : BitVec 8) (on : Bool) : Statement (.iconWrite col on) :=
  row_of_fields false 0xFF 0 rfl (by simp only [rowMask]; decide) (Bool.and_false _) BitVec.zero_and BitVec.and_zero
    (by simp only [rowMatch]; decide)

theorem signal (level : BitVec 8) : Statement (.signal level) :=
  row_of_fields true 0xFF 0 rfl (by simp only [rowMask]; decide) (rfl) BitVec.zero_and BitVec.and_zero
    (by simp only [rowMatch]; decide)

theorem bell (state : Bool) : Statement (.bell state) :=
  row_of_fields false 0xFF 0xFF rfl (by simp only [rowMask]; decide) (Bool.and_false _) BitVec.zero_and BitVec.zero_and
    (by simp only [rowMatch]; decide)

theorem message (state : Bool) : Statement (.message state) :=
  row_of_fields false 0xFF 0xFF rfl (by simp only [rowMask]; decide) (Bool.and_false _) BitVec.zero_and BitVec.zero_and
    (by simp only [rowMatch]; decide)

theorem network (state : BitVec 8) : Statement (.network state) :=
  row_of_fields true 0xFF 0 rfl (by simp only [rowMask]; decide) (rfl) BitVec.zero_and BitVec.and_zero
    (by simp only [rowMatch]; decide)

theorem battery (level : BitVec 8) : Statement (.battery level) :=
  row_of_fields true 0xFF 0 rfl (by simp only [rowMask]; decide) (rfl) BitVec.zero_and BitVec.and_zero
    (by simp only [rowMatch]; decide)

theorem renderDigit (digit position : BitVec 8) : Statement (.renderDigit digit position) :=
  row_of_fields true 0 0 rfl (by simp only [rowMask]; decide) (rfl) BitVec.and_zero BitVec.and_zero
    (by simp only [rowMatch]; decide)

theorem clock (segment1 segment2 : BitVec 8) (separator : Bool) : Statement (.clock segment1 segment2 separator) :=
  row_of_fields false 0 0 rfl (by simp only [rowMask]; decide) (Bool.and_false _) BitVec.and_zero BitVec.and_zero
    (by simp only [rowMatch]; decide)

theorem reserved (bits : BitVec 28) : Statement (.reserved bits) := by
  show (0xF#4 ++ bits) &&& (0xF0000000#32) = 0xF0000000#32
  rw [show (0xF0000000#32) = 0xF#4 ++ 0#28 by decide, BitVec.and_append, BitVec.and_zero]
  rfl

end RowWord
end Laws
end Sys2Proof
end

