-- ==== Sys2Proof/Laws/Run.lean ====
section
/-! SUPPORT. Runs of the machine (`Host.Core.run`): one step then the rest, a step that stops, and two runs in sequence. -/

namespace Sys2Proof
namespace Machine

theorem run_next {s t : State} (k : Nat) (h : step s = .next t) : core.run (k + 1) s = core.run k t := by
  have hc : core.step s = .next t := h
  simp only [Host.Core.run, hc]

theorem run_fault {s : State} {r : Fault} (k : Nat) (h : step s = .fault r) : core.run (k + 1) s = .fault r := by
  have hc : core.step s = .fault r := h
  simp only [Host.Core.run, hc]

/-- Packaged once: a run of `n` steps that ends in `t`, then `m` more. -/
theorem run_add {n : Nat} (m : Nat) {s t : State} (h : core.run n s = .next t) : core.run (n + m) s = core.run m t := by
  induction n generalizing s with
  | zero =>
    cases h
    rw [Nat.zero_add]
  | succ n ih =>
    rw [Nat.succ_add]
    cases hs : core.step s with
    | next u =>
      rw [run_next _ hs] at h ⊢
      exact ih h
    | fault r =>
      rw [run_fault _ hs] at h
      cases h
    | refused r =>
      simp only [Host.Core.run, hs] at h
      cases h

end Machine
end Sys2Proof
end

