-- ==== Sys2Proof/Laws/Step.lean ====
section
/-! SUPPORT. What one clock edge can do, said once: the inversion lemma `step_cases` and one lemma for each kind of edge. -/

namespace Sys2Proof
namespace Machine

/-- What an edge can do to the state left after the edge has passed, when it answers a next state. -/
inductive EdgeDone (s : State) : State → Prop where
  /-- `rst = 1` (R250). -/
  | reset (h : s.nextEdge.rst = true) : EdgeDone s s.passEdge.resetAction
  /-- A `tx` transfer (R232). -/
  | tx (hr : s.nextEdge.rst = false) (hq : s.txq ≠ []) (ht : s.nextEdge.txReady = true) : EdgeDone s s.passEdge.takeTx
  /-- A `rsp` transfer (R232). -/
  | rsp (hr : s.nextEdge.rst = false) (hp : s.rsp.isSome = true) (hq : s.txq = []) (ht : s.nextEdge.rspReady = true) :
      EdgeDone s s.passEdge.takeRsp
  /-- A request transfer (R232). -/
  | req (w : Word) (t : State) (hr : s.nextEdge.rst = false) (hb : s.busy = false) (hf : s.fault = false)
      (hv : s.nextEdge.reqValid = true) (hw : s.requests.head? = some w) (ht : serve w s.passEdge.accept = .next t) :
      EdgeDone s t
  /-- No transfer. -/
  | hold (hr : s.nextEdge.rst = false) : EdgeDone s s.passEdge

/-- Every next state of a step is one of these. -/
theorem step_cases {s t : State} (h : step s = .next t) : EdgeDone s t := by
  unfold step clockEdge at h
  split at h
  · cases h
    exact .reset ‹_›
  · rename_i hr
    have hr : s.nextEdge.rst = false := by simpa using hr
    split at h
    · cases h
    · unfold transfer at h
      split at h
      · cases h
        have hc : (!s.txq.isEmpty && !s.nextEdge.rst && s.nextEdge.txReady) = true := ‹_›
        simp only [Bool.and_eq_true, Bool.not_eq_true', List.isEmpty_eq_false_iff] at hc
        exact .tx hr hc.1.1 hc.2
      · split at h
        · cases h
          have hc : (s.rsp.isSome && s.txq.isEmpty && !s.nextEdge.rst && s.nextEdge.rspReady) = true := ‹_›
          simp only [Bool.and_eq_true, List.isEmpty_iff] at hc
          exact .rsp hr hc.1.1.1 hc.1.1.2 hc.2
        · split at h
          · have hc : (!s.busy && !s.fault && !s.nextEdge.rst) = true := ‹_›
            simp only [Bool.and_eq_true, Bool.not_eq_true'] at hc
            split at h
            · rename_i w hw
              have hw : (if s.nextEdge.reqValid then s.requests.head? else none) = some w := hw
              split at hw
              · exact .req w t hr hc.1.1 hc.1.2 ‹_› hw h
              · cases hw
            · cases h
              exact .hold hr
          · cases h
            exact .hold hr

/-- A step never refuses: every instruction has its meaning. -/
theorem step_not_refused (s : State) (r : Refusal) : step s ≠ .refused r := by
  intro h
  unfold step clockEdge at h
  split at h
  · cases h
  · split at h
    · cases h
    · unfold transfer at h
      repeat' split at h
      all_goals first
        | cases h
        | (rename_i w _
           obtain ⟨t, ht, -⟩ := serve_served w s.passEdge.accept
           rw [ht] at h
           cases h)

end Machine
end Sys2Proof
end

