-- ==== Sys2Proof/Tests/Slice0.lean ====
section
/-! SUPPORT. The model's own tests. Expected results are the spec's (95_test_vectors.md, 30_encoding.md section 4) or worked
by hand from the rule named; the V-… and P… names are those of 95_test_vectors.md. The witnesses at the end meet the
hypotheses of the statements. -/

namespace Sys2Proof
namespace Tests
open Machine Config

/-- The reset state under the fixture tables. -/
def base : State := { State.reset with cfg := fixture }

/-- Glyph fixture T2: column `i` of every code but the space is `1 << i`. -/
def fixtureT2 : Params :=
  { fixture with glyphRom := Vector.ofFn fun k => if k.val < 5 then 0x00#8 else 1#8 <<< (k.val % 5) }

/-- The segment table of the leak vector: digit 1 states only its on-set. -/
def leakTable : Params :=
  { fixture with segOff := #v[0x40, 0x00, 0x24, 0x30, 0x19, 0x12, 0x02, 0x78, 0x00, 0x10] }

/-- `IW(c, on)` of 95_test_vectors.md section 0, written from its words. -/
def IW (c : Nat) (on : Bool) : List TxEvent :=
  [.cmd 0xB8, .cmd (.ofNat 8 (c % 16)), .cmd (.ofNat 8 (16 + c / 16)), .data (if on then 0x01 else 0x00)]

/-- The state a meaning answers, none if it stops. -/
def after (r : Result) : Option State :=
  match r with
  | .next t => some t
  | .fault _ => none
  | .refused _ => none

/-- What a request did, for short tests: framebuffer, cursor, status, events, response. -/
structure Seen where
  fb : Memory
  cursor : Nat × Nat
  status : BitVec 8
  events : List TxEvent
  rsp : Option Response
deriving DecidableEq, Repr

/-- What can be seen of the state that a meaning answers. -/
def seen (r : Result) : Option Seen :=
  (after r).map fun t => ⟨t.fb, (t.cursorX.toNat, t.cursorY.toNat), t.status, t.txq, t.rsp⟩

/-! ## Well-formedness: an ill-formed line for each check is refused (R87) -/

theorem test_wf_byte_operand_256 : (AsmLine.setPixel 256 0 0).wellFormed = false := by decide
theorem test_wf_second_byte_operand : (AsmLine.readPageRow 0 256).wellFormed = false := by decide
theorem test_wf_bit_operand_2 : (AsmLine.setPixel 0 0 2).wellFormed = false := by decide
theorem test_wf_only_bit_operand : (AsmLine.bell 2).wellFormed = false := by decide
theorem test_wf_text_byte_256 : (AsmLine.render 0 0 [65, 256]).wellFormed = false := by decide
theorem test_wf_bounds_fit : (AsmLine.setPixel 255 255 1).wellFormed = true := by decide
theorem test_ill_formed_is_no_words : assemble (.iconWrite 256 1) = none := by decide

/-! ## Decoding: a word of each constructor, its fields written out as R81 and R83 lay them -/

theorem test_decode_clear : decode (0b0000#4 ++ 0#12 ++ 0#8 ++ 0#8) = .ok .clear := rfl
theorem test_decode_setPixel :
    decode (0b0001#4 ++ 0b00000000000#11 ++ 0b1#1 ++ 0b00010100#8 ++ 0b00001010#8) = .ok (.setPixel 10 20 true) := rfl
theorem test_decode_getPixel :
    decode (0b0010#4 ++ 0b000000000000#12 ++ 0b00001001#8 ++ 0b00000101#8) = .ok (.getPixel 5 9) := rfl
theorem test_decode_readPageRow :
    decode (0b0011#4 ++ 0b000000000000#12 ++ 0b00000001#8 ++ 0b00000101#8) = .ok (.readPageRow 1 5) := rfl
theorem test_decode_setCursor :
    decode (0b0100#4 ++ 0b000000000000#12 ++ 0b00111100#8 ++ 0b10000001#8) = .ok (.setCursor 129 60) := rfl
theorem test_decode_renderChar : decode (0b0101#4 ++ 0#20 ++ 0b01000001#8) = .ok (.renderChar 65) := rfl
theorem test_decode_update : decode (0b0110#4 ++ 0#28) = .ok .update := rfl
theorem test_decode_iconWrite :
    decode (0b0111#4 ++ 0b00000000000#11 ++ 0b1#1 ++ 0#8 ++ 0b00100101#8) = .ok (.iconWrite 37 true) := rfl
theorem test_decode_signal : decode (0b1000#4 ++ 0#20 ++ 0b00001001#8) = .ok (.signal 9) := rfl
theorem test_decode_bell : decode (0b1001#4 ++ 0b00000000000#11 ++ 0b1#1 ++ 0#16) = .ok (.bell true) := rfl
theorem test_decode_message : decode (0b1010#4 ++ 0b00000000000#11 ++ 0b1#1 ++ 0#16) = .ok (.message true) := rfl
theorem test_decode_network : decode (0b1011#4 ++ 0#20 ++ 0b00000010#8) = .ok (.network 2) := rfl
theorem test_decode_battery : decode (0b1100#4 ++ 0#20 ++ 0b00000100#8) = .ok (.battery 4) := rfl
theorem test_decode_renderDigit :
    decode (0b1101#4 ++ 0b000000000000#12 ++ 0b00000010#8 ++ 0b00000111#8) = .ok (.renderDigit 7 2) := rfl
theorem test_decode_clock :
    decode (0b1110#4 ++ 0b00000000000#11 ++ 0b1#1 ++ 0b00101010#8 ++ 0b00000111#8) = .ok (.clock 7 42 true) := rfl
theorem test_decode_reserved : decode (0b1111#4 ++ 0xFFFFFFF#28) = .ok (.reserved 0xFFFFFFF) := rfl

/-- V-E5 to V-E11. -/
theorem test_decode_rejects_reserved_bits :
    ∀ w ∈ [0x00000001#32, 0x10020000, 0x60000001, 0xD001000A, 0x7001FF00, 0x90010001, 0x50010041],
      decode w = .error .reservedBits := by
  simp only [List.forall_mem_cons]; exact ⟨rfl, rfl, rfl, rfl, rfl, rfl, rfl, by simp⟩

theorem test_decodeTableWord : decodeTableWord 32 0x1001140A = some (.setPixel 10 20 true) := by decide
theorem test_decodeTableWord_rejects : decodeTableWord 32 0x10020000 = none := by decide

/-! ## Assembly (R87, R88) -/

theorem test_parse_set_pixel :
    (parseLine "SET_PIXEL     10, 0x14, 1".toList).bind assemble = some [0x1001140A] := by decide
theorem test_parse_character : parseLine "RENDER_CHAR ','".toList = some (.renderChar 44) := by decide
theorem test_parse_wrong_count : parseLine "CLEAR 1".toList = none := by decide
/-- P2, requests 1 to 5. -/
theorem test_parse_render : (parseLine "RENDER 0, 4, \"H \\ni\"".toList).bind assemble =
    some [0x40000400, 0x50000048, 0x50000020, 0x5000000A, 0x50000069] := by decide
theorem test_empty_string_is_set_cursor : assemble (.render 7 8 []) = some [0x40000807] := by decide

/-! ## The framebuffer -/

theorem test_reset_memory_wf : State.reset.fb.wf = true := by decide
theorem test_unsorted_memory_is_refused : Memory.wf [(5, 1), (4, 1)] = false := by decide
theorem test_memory_outside_fb_is_refused : Memory.wf [(1056, 1)] = false := by decide
theorem test_memory_listing_the_reset_byte_is_refused : Memory.wf [(5, 0)] = false := by decide

/-! ## The requests -/

/-- V-P15. -/
theorem test_clear : seen (exec .clear { base with fb := [(0, 0x01), (1055, 0x80)], cursorX := 7 }) =
    some ⟨[], (7, 0), 0x00, [], some ⟨true, 0x00⟩⟩ := by decide
/-- V-P2. -/
theorem test_setPixel_last : seen (exec (.setPixel 131 63 true) base) =
    some ⟨[(1055, 0x80)], (0, 0), 0x00, [], some ⟨true, 0x00⟩⟩ := by decide
/-- V-P7. -/
theorem test_setPixel_off : (after (exec (.setPixel 5 12 false) { base with fb := [(137, 0xFF)] })).map (·.fb) =
    some [(137, 0xEF)] := by decide
/-- V-P8. -/
theorem test_getPixel : (after (exec (.getPixel 5 9) { base with fb := [(137, 0x02)] })).map (·.rsp) =
    some (some ⟨true, 0x01⟩) := by decide
/-- V-P9. -/
theorem test_getPixel_other_row : (after (exec (.getPixel 5 8) { base with fb := [(137, 0x02)] })).map (·.rsp) =
    some (some ⟨true, 0x00⟩) := by decide
/-- V-P11, its operands in the order of R87. -/
theorem test_readPageRow : (after (exec (.readPageRow 1 5) { base with fb := [(137, 0x82)] })).map (·.rsp) =
    some (some ⟨true, 0x82⟩) := by decide
/-- V-P14: column 132 of page 0 is no byte, though address 132 is one. -/
theorem test_readPageRow_column : (after (exec (.readPageRow 0 132) { base with fb := [(132, 0x82)] })).map (·.rsp) =
    some (some ⟨true, 0x00⟩) := by decide
/-- V-T5, its first request. -/
theorem test_setCursor : seen (exec (.setCursor 129 60) { base with cursorX := 0xFFFF }) =
    some ⟨[], (129, 60), 0x00, [], some ⟨true, 0x00⟩⟩ := by decide
/-- V-T5: clipped at the right and at the bottom. -/
theorem test_renderChar_clips : seen (exec (.renderChar 65) { base with cursorX := 129, cursorY := 60 }) =
    some ⟨[(1053, 0xF0), (1054, 0xF0), (1055, 0xF0)], (135, 60), 0x00, [], some ⟨true, 0x00⟩⟩ := by decide +kernel
/-- V-T7: opaque, column by column. -/
theorem test_renderChar_opaque :
    (after (exec (.renderChar 65) { base with cfg := fixtureT2, fb := (List.range 6).map fun a => (a, 0xFF) })).map
      (fun t => (t.fb, t.cursorX)) =
    some ([(0, 0x01), (1, 0x02), (2, 0x04), (3, 0x08), (4, 0x10), (5, 0xFF)], 6) := by decide +kernel
/-- V-U2. -/
theorem test_update : (after (exec .update { base with fb := [(0, 0x01), (1055, 0x80)] })).map
    (fun t => (t.txq.take 5, (t.txq.drop 134).take 5, t.txq.drop 1078)) =
    some ([.cmd 0xB0, .cmd 0x00, .cmd 0x10, .data 0x01, .data 0x00],
      [.data 0x00, .cmd 0xB1, .cmd 0x00, .cmd 0x10, .data 0x00], [.data 0x00, .data 0x80]) := by decide +kernel
/-- V-U4. -/
theorem test_update_hiFirst : (after (exec .update { base with cfg := { fixture with colOrder := .hiFirst } })).map
    (fun t => t.txq.take 4) = some [.cmd 0xB0, .cmd 0x10, .cmd 0x00, .data 0x00] := by decide +kernel
/-- V-S1. -/
theorem test_iconWrite : seen (exec (.iconWrite 37 true) base) =
    some ⟨[], (0, 0), 0x00, [.cmd 0xB8, .cmd 0x05, .cmd 0x12, .data 0x01], some ⟨true, 0x00⟩⟩ := by decide
/-- V-S4. -/
theorem test_iconWrite_column_132 : seen (exec (.iconWrite 132 true) base) =
    some ⟨[], (0, 0), 0x00, [], some ⟨true, 0x00⟩⟩ := by decide
/-- V-S10. -/
theorem test_signal : (after (exec (.signal 2) base)).map (·.txq) =
    some (IW 0 true ++ IW 1 true ++ IW 2 false ++ IW 3 false ++ IW 4 false) := by decide
/-- V-S11. -/
theorem test_signal_clamps : (after (exec (.signal 255) base)).map (·.txq) =
    some (IW 0 true ++ IW 1 true ++ IW 2 true ++ IW 3 true ++ IW 4 true) := by decide
/-- V-S6. -/
theorem test_bell : (after (exec (.bell true) base)).map (·.txq) = some (IW 10 true) := by decide
/-- V-S8. -/
theorem test_message : (after (exec (.message false) base)).map (·.txq) = some (IW 11 false) := by decide
/-- E9. -/
theorem test_network_send_only : (after (exec (.network 2) base)).map (·.txq) = some (IW 12 false ++ IW 13 true) := by
  decide
/-- E9: the clamp comes before the bit test. -/
theorem test_network_clamps : (after (exec (.network 200) base)).map (·.txq) = some (IW 12 true ++ IW 13 true) := by
  decide
/-- E5. -/
theorem test_battery_empty : (after (exec (.battery 0) base)).map (·.txq) =
    some (IW 20 true ++ IW 21 false ++ IW 23 false ++ IW 22 false) := by decide
/-- V-S13. -/
theorem test_battery_order : (after (exec (.battery 2) base)).map (·.txq) =
    some (IW 20 true ++ IW 21 true ++ IW 23 true ++ IW 22 false) := by decide
/-- V-D5: position 9 is clamped to 4. -/
theorem test_renderDigit : (after (exec (.renderDigit 1 9) base)).map (·.txq) =
    some (IW 53 true ++ IW 54 true ++ IW 52 false ++ IW 55 false ++ IW 56 false ++ IW 57 false ++ IW 58 false) := by
  decide
/-- V-D6. -/
theorem test_renderDigit_range : seen (exec (.renderDigit 10 1) { base with busy := true }) =
    some ⟨[], (0, 0), 0x33, [], some ⟨false, 0x03⟩⟩ := by decide
/-- E6. -/
theorem test_clock : (after (exec (.clock 7 42 true) base)).map (·.txq) = some (
    IW 30 true ++ IW 31 true ++ IW 32 true ++ IW 33 true ++ IW 34 true ++ IW 35 true ++ IW 36 false ++
    IW 37 true ++ IW 38 true ++ IW 39 true ++ IW 40 false ++ IW 41 false ++ IW 42 false ++ IW 43 false ++
    IW 46 true ++ IW 47 true ++ IW 50 true ++ IW 51 true ++ IW 45 false ++ IW 48 false ++ IW 49 false ++
    IW 52 true ++ IW 53 true ++ IW 55 true ++ IW 56 true ++ IW 58 true ++ IW 54 false ++ IW 57 false ++
    IW 44 true) := by decide +kernel
/-- V-S17; the clock value 99 is V-S16's. -/
theorem test_clock_range : seen (exec (.clock 100 0 false) { base with busy := true }) =
    some ⟨[], (0, 0), 0x43, [], some ⟨false, 0x04⟩⟩ := by decide
/-- V-F4, V-E4: STATUS is 0x12 once BUSY is 0. -/
theorem test_reserved : seen (exec (.reserved 0xFFFFFFF) { base with cursorX := 9, cursorY := 9 }) =
    some ⟨[], (9, 9), 0x12, [], some ⟨false, 0x01⟩⟩ := by decide

/-! ## The clock edge -/

/-- The word is offered, and the very next edge runs it from the reset state. -/
theorem test_step_runs_the_word : (after (step (State.reset.withFetchWord 32 0x10013F83))).map
    (fun t => (t.fb, t.status, t.rsp)) = some ([(1055, 0x80)], 0x01, some ⟨true, 0x00⟩) := by decide
/-- V-E6. -/
theorem test_step_reserved_bits : (after (step (base.withFetchWord 32 0x10020000))).map
    (fun t => (t.status, t.rsp)) = some (0x23, some ⟨false, 0x02⟩) := by decide
/-- R226, R232: STATUS after the response is taken (V-F1). -/
theorem test_fault_stays_when_the_response_is_taken :
    (after (step { base with busy := true, fault := true, cause := .digitRange, rsp := some ⟨false, 0x03⟩ })).map
      State.status = some 0x32 := by decide
/-- V-F2. -/
theorem test_halted_block_stops :
    (match step { base with fault := true, cause := .digitRange, requests := [0] } with
      | .fault r => some r
      | .next _ => none
      | .refused _ => none) = some (.haltedUntilReset .digitRange) := rfl
/-- V-F3. -/
theorem test_reset_after_fault :
    (after (step { base with
      fb := [(1, 0x02)], fault := true, cause := .digitRange, edges := [⟨true, true, true, true⟩] })).map
      (fun t => (t.fb, t.status, t.txlog)) = some ([], 0x00, []) := by decide
/-- V-F6: the response is never offered, the rest of the group is discarded, the log stays. -/
theorem test_reset_in_progress :
    (after (step { base with
      busy := true, txq := [.data 0x00], txlog := [.cmd 0xB0], rsp := some ⟨true, 0x00⟩,
      edges := [⟨true, true, true, true⟩] })).map (fun t => (t.busy, t.txq, t.txlog, t.rsp)) =
    some (false, [], [.cmd 0xB0], none) := by decide
/-- The leak vector, column 30 (segment A) and column 31 (segment B) under a table that does not list A for digit 1. -/
theorem test_leak : (iconView leakTable (digitWrite leakTable 8 .p1 ++ digitWrite leakTable 1 .p1) 30,
    iconView leakTable (digitWrite leakTable 8 .p1 ++ digitWrite leakTable 1 .p1) 31) = (.on, .on) := by decide
/-- Part 3, P3: MESSAGE was never written. -/
theorem test_view_unknown : iconView fixture (signalGroup fixture 5) 11 = .unknown := by decide

/-! ## Witnesses: concrete states and operands that meet the hypotheses of each statement, at the bounds of each clause -/

/-- The invariant of a state under the fixture tables that has no response pending and no fault recorded. -/
theorem inv_of_idle {s : State} (hfb : s.fb.wf = true) (hb : s.busy = false) (hf : s.fault = false)
    (hc : s.cause = .none) (hq : s.txq = []) (hr : s.rsp = none) (hcfg : s.cfg = fixture) : s.Inv :=
  ⟨hfb, fun _ => ⟨hq, hr⟩, fun h => by simp [hb] at h, by simp [hf, hc], fun h => by simp [hf] at h,
    fun r h => by simp [hr] at h, by rw [hcfg]; exact fixture_wf⟩

theorem base_inv : base.Inv := inv_of_idle rfl rfl rfl rfl rfl rfl rfl
theorem base_idle : base.Idle := ⟨rfl, rfl, rfl, rfl⟩

/-- A request in progress: one event is pending before its response. -/
def sending : State := { base with busy := true, txq := [.cmd 0xB8], rsp := some ⟨true, 0x00⟩ }
/-- A request whose response is offered. -/
def answering : State := { base with busy := true, rsp := some ⟨true, 0x00⟩ }
/-- A fault is recorded and its response has been taken. -/
def haltedState : State := { base with fault := true, cause := .digitRange }

theorem halted_inv : haltedState.Inv :=
  ⟨rfl, fun _ => ⟨rfl, rfl⟩, fun h => (by cases h), by decide, fun _ => rfl, fun _ h => (by cases h), fixture_wf⟩

/-- DecodeThenEncodeGivesTheWord. -/
theorem witness_word_that_decodes : decode 0xE001FFFF = .ok (.clock 255 255 true) := rfl

/-- DecodeRejectsExactlyReservedBits: opcode 0xF; for the first and the last opcode a reserved bit set, and none set. -/
theorem witness_reserved_bits :
    (0xFFFFFFFF#32).extractLsb' 28 4 = 0xF#4 ∧
    ((0x00000001#32).extractLsb' 28 4 = 0#4 ∧ 0x00000001#32 &&& 0x0FFFFFFF ≠ 0#32) ∧
    ((0x00000000#32).extractLsb' 28 4 = 0#4 ∧ 0x00000000#32 &&& 0x0FFFFFFF = 0#32) ∧
    ((0xE0020000#32).extractLsb' 28 4 = 14#4 ∧ 0xE0020000#32 &&& 0x0FFE0000 ≠ 0#32) ∧
    ((0xE001FFFF#32).extractLsb' 28 4 = 14#4 ∧ 0xE001FFFF#32 &&& 0x0FFE0000 = 0#32) := by decide

/-- AssembledLinesDecodeToTheirRequests: operands at their bounds, and one above each bound (300 is no clock value to cut). -/
theorem witness_assembled_lines :
    assemble (.clock 255 0 1) = some [0xE00100FF] ∧ assemble (.render 255 0 [255, 0]) =
      some [0x400000FF, 0x500000FF, 0x50000000] ∧ assemble (.clock 300 0 0) = none ∧ assemble (.clock 0 0 2) = none ∧
      assemble (.pixelOn 0 256) = none := by decide

/-- AddressGeneratorIsOneToOneAndOnto. -/
theorem witness_addresses :
    inB 0 0 = true ∧ inB 131 63 = true ∧ fbAddr 131 63 = fbAddr 131 63 ∧ fbBit 131 63 = fbBit 131 63 ∧
    inB 132 63 = false ∧ inB 131 64 = false ∧ 1055 < 1056 ∧ 7 < 8 := by decide

/-- PixelWritesOfDistinctPixelsCommute: two pixels of one byte. -/
theorem witness_distinct_pixels : Memory.wf [(1055, 0x80)] = true ∧ ((131, 63) : Nat × Nat) ≠ (131, 62) := by decide

/-- FramebufferFormIsCanonical: the clauses about a request and about an accepted word. -/
theorem witness_framebuffer_writes :
    let s : State := { base with fb := [(1055, 0x80)] }
    s.fb.wf = true ∧ (∃ t, exec .clear s = .next t) ∧ (∃ t, exec (.setPixel 0 0 true) s = .next t) ∧
      ∃ t, serve 0x10020000 s = .next t := ⟨rfl, ⟨_, rfl⟩, ⟨_, rfl⟩, _, rfl⟩

/-- FramebufferFormIsCanonical: the clause about equal pixels. -/
theorem witness_same_pixels : Memory.wf [(1055, 0x80)] = true ∧
    (∀ x y, x < 132 → y < 64 → (Memory.read [(1055, 0x80)] (y / 8 * 132 + x)).getLsbD (y % 8) =
      (Memory.read [(1055, 0x80)] (y / 8 * 132 + x)).getLsbD (y % 8)) := ⟨by decide, fun _ _ _ _ => rfl⟩

/-- The word clauses of the request statements: a word of each row with its operand bits set. -/
theorem witness_row_words :
    0x1001FFFF#32 &&& 0xFFFE0000 = 0x10000000 ∧ 0x2000FFFF#32 &&& 0xFFFF0000 = 0x20000000 ∧
    0x3000FFFF#32 &&& 0xFFFF0000 = 0x30000000 ∧ 0x4000FFFF#32 &&& 0xFFFF0000 = 0x40000000 ∧
    0x500000FF#32 &&& 0xFFFFFF00 = 0x50000000 ∧ 0x700100FF#32 &&& 0xFFFEFF00 = 0x70000000 ∧
    0x800000FF#32 &&& 0xFFFFFF00 = 0x80000000 ∧ 0x90010000#32 &&& 0xFFFEFFFF = 0x90000000 ∧
    0xA0010000#32 &&& 0xFFFEFFFF = 0xA0000000 ∧ 0xB00000FF#32 &&& 0xFFFFFF00 = 0xB0000000 ∧
    0xC00000FF#32 &&& 0xFFFFFF00 = 0xC0000000 ∧ 0xD000FFFF#32 &&& 0xFFFF0000 = 0xD0000000 ∧
    0xE001FFFF#32 &&& 0xFFFE0000 = 0xE0000000 ∧ 0xFFFFFFFF#32 &&& 0xF0000000 = 0xF0000000 := by decide

/-- ClearZeroesTheFramebuffer. -/
theorem witness_clear_word : (0x00000000#32 : Word) = 0x00000000#32 := rfl

/-- SetPixelWritesExactlyItsPixel, PixelRoundTrip: the last pixel, the first column and the first row beyond. -/
theorem witness_set_pixel :
    base.fb.wf = true ∧ (131#8).toNat < 132 ∧ (63#8).toNat < 64 ∧ ((131#8, 62#8) : BitVec 8 × BitVec 8) ≠ (131#8, 63#8) ∧
    132 ≤ (132#8).toNat ∧ 64 ≤ (64#8).toNat ∧ (inB (131#8).toNat (63#8).toNat = true → 0 ≠ fbAddr (131#8).toNat (63#8).toNat) := by
  decide

/-- RenderCharDrawsItsGlyphAndAdvances, printable codes: the last glyph pixel on the screen, the pixels just outside the cell, and a byte that
the cell does not touch. -/
theorem witness_render_char :
    base.fb.wf = true ∧ 32 ≤ (32#8).toNat ∧ (127#8).toNat ≤ 127 ∧
    (4 < 5 ∧ 7 < 8 ∧ (127#16).toNat + 4 < 132 ∧ (56#8).toNat + 7 < 64) ∧
    (126 < (127#16).toNat ∨ (127#16).toNat + 5 ≤ 126 ∨ 56 < (56#8).toNat ∨ (56#8).toNat + 8 ≤ 56) ∧
    (∀ i, i < 5 → ∀ r, r < 8 → inB ((127#16).toNat + i) ((56#8).toNat + r) = true →
      0 ≠ fbAddr ((127#16).toNat + i) ((56#8).toNat + r)) := by decide

/-- RenderCharDrawsItsGlyphAndAdvances, codes that are skipped. -/
theorem witness_unprintable : ((31#8).toNat < 32 ∨ 127 < (31#8).toNat) ∧ ((128#8).toNat < 32 ∨ 127 < (128#8).toNat) := by
  decide

/-- RenderTextMovesTheCursor, RenderTextDrawsEveryGlyph: a text with a code that is skipped, a space and a glyph; the glyph
stands at column 5, the pixel left of the line is at column 4. -/
theorem witness_text :
    base.Idle ∧ base.fb.wf = true ∧ (∀ c ∈ [128, 32, 127], c ≤ 255) ∧
    [128, 32, 127] = [128, 32] ++ 127 :: [] ∧ 32 ≤ 127 ∧ 0 + textWidth [128, 32] + 4 < 132 ∧ 0 + 7 < 64 ∧
    (4 < 5 ∨ 0 < 0 ∨ 0 + 8 ≤ 0) := ⟨base_idle, by decide⟩

/-- IconWriteIsItsFourEvents. -/
theorem witness_icon_column : 131 < 132 := by decide

/-- DigitWriteIsOnWritesThenOffWrites: the last position's offset. -/
theorem witness_position : (Position.p1 = .p1 ∧ 0 = 0) ∧ (Position.p4 = .p4 ∧ 22 = 22) := by decide

/-- SignalDrawsTheBars. -/
theorem witness_bar : 4 < 5 := by decide

/-- RenderDigitWritesOrFaults: digit 9 at the bounds of each position's range, and digit 10. -/
theorem witness_render_digit :
    (9#8).toNat = (9 : Fin 10).val ∧ (0#8).toNat ≤ 1 ∧ (1#8).toNat ≤ 1 ∧ (2#8).toNat = 2 ∧ (3#8).toNat = 3 ∧
    4 ≤ (4#8).toNat ∧ 4 ≤ (255#8).toNat ∧ 9 < (10#8).toNat := by decide

/-- ClockWritesFourDigitsOrFaults: 99 and 0, and 100 in either operand. -/
theorem witness_clock :
    (99#8).toNat = 10 * (9 : Fin 10).val + (9 : Fin 10).val ∧ (0#8).toNat = 10 * (0 : Fin 10).val + (0 : Fin 10).val ∧
    (99 < (100#8).toNat ∨ 99 < (0#8).toNat) ∧ (99 < (0#8).toNat ∨ 99 < (100#8).toNat) := by decide

/-- UpdateEmitsEveryPageInOrder. -/
theorem witness_page_column : 131 < 132 := by decide

/-- UpdateSendsTheWholeFramebuffer. -/
theorem witness_update : (∃ t, exec .update base = .next t) ∧ base.txq = [] := ⟨⟨_, rfl⟩, rfl⟩

/-- UpdateNeverDisturbsIcons, IconWriteSetsItsView. -/
theorem witness_columns : fixture.wf ∧ columnCmds fixture 0 ≠ columnCmds fixture 131 := by decide

/-- UnlistedSegmentKeepsItsView: column 30, segment A of digit 1 in the leak table. -/
theorem witness_unlisted_segment : leakTable.wf ∧
    (∀ (seg : Segment) (c' : Fin 132), segIsOn leakTable 1 seg = true ∨ segIsOff leakTable 1 seg = true →
      c'.val = segColumn leakTable seg .p1 → columnCmds leakTable 30 ≠ columnCmds leakTable c') := by
  refine ⟨by decide, fun seg c' h hc => ?_⟩
  cases seg
  · exact absurd h (by decide)
  · obtain rfl : c' = 31 := Fin.ext hc
    decide
  · obtain rfl : c' = 32 := Fin.ext hc
    decide
  all_goals exact absurd h (by decide)

/-- FaultsAreExactAndPrecise: each case of a faulting request, and one that does not fault at its bounds. -/
theorem witness_faulting_requests :
    (∃ b, Instr.reserved 0 = .reserved b) ∧ (∃ d p, Instr.renderDigit 10 1 = .renderDigit d p ∧ 9 < d.toNat) ∧
    (∃ a b e, Instr.clock 100 0 false = .clock a b e ∧ (99 < a.toNat ∨ 99 < b.toNat)) ∧
    ¬((∃ b, Instr.clock 99 99 false = .reserved b) ∨
      (∃ d p, Instr.clock 99 99 false = .renderDigit d p ∧ 9 < d.toNat) ∨
      (∃ a b e, Instr.clock 99 99 false = .clock a b e ∧ (99 < a.toNat ∨ 99 < b.toNat))) := by
  refine ⟨⟨0, rfl⟩, ⟨10, 1, rfl, by decide⟩, ⟨100, 0, false, rfl, by decide⟩, ?_⟩
  rintro (⟨b, h⟩ | ⟨d, p, h, -⟩ | ⟨a, b, e, h, h'⟩)
  · cases h
  · cases h
  · cases h; exact absurd h' (by decide)

/-- EachRequestKeepsToItsPath, OnlyReadersRevealFramebufferAndNoneTheCursor. -/
theorem witness_path_clauses :
    (∃ x y, Instr.setCursor 0 0 = .setCursor x y) ∧ Instr.clear ≠ .update ∧ (∀ x y, Instr.clear ≠ .getPixel x y) ∧
    (∀ p c, Instr.clear ≠ .readPageRow p c) :=
  ⟨⟨0, 0, rfl⟩, by decide, fun _ _ h => (by cases h), fun _ _ h => by cases h⟩

/-- StepRunsTheOfferedRequest. -/
theorem witness_offered_request :
    (base.withFetchWord 32 0x10013F83).Idle ∧ (base.withFetchWord 32 0x10013F83).nextEdge.rst = false ∧
    (base.withFetchWord 32 0x10013F83).nextEdge.reqValid = true ∧
    (base.withFetchWord 32 0x10013F83).requests.head? = some 0x10013F83 ∧
    decode 0x10013F83 = .ok (.setPixel 131 63 true) := ⟨⟨rfl, rfl, rfl, rfl⟩, rfl, rfl, rfl, rfl⟩

/-- StepOnReservedBitsTakesTheFaultEntry. -/
theorem witness_offered_reserved_bits :
    (base.withFetchWord 32 1).Idle ∧ (base.withFetchWord 32 1).nextEdge.rst = false ∧
    (base.withFetchWord 32 1).nextEdge.reqValid = true ∧ (base.withFetchWord 32 1).requests.head? = some 1 ∧
    decode 1 = .error .reservedBits := ⟨⟨rfl, rfl, rfl, rfl⟩, rfl, rfl, rfl, rfl⟩

/-- TransportTransferMovesOneEvent. -/
theorem witness_sending : sending.busy = true ∧ sending.txq = .cmd 0xB8 :: [] ∧ sending.nextEdge.rst = false ∧
    sending.nextEdge.txReady = true := ⟨rfl, rfl, rfl, rfl⟩

/-- ResponseTransferClearsBusy. -/
theorem witness_answering : answering.busy = true ∧ answering.txq = [] ∧ answering.rsp.isSome = true ∧
    answering.nextEdge.rst = false ∧ answering.nextEdge.rspReady = true := ⟨rfl, rfl, rfl, rfl, rfl⟩

/-- BlockHoldsWithoutATransfer: a transport that does not accept (V-F5), a host that does not take the response, nothing
offered and no request left. -/
theorem witness_holds :
    (let s : State := { sending with edges := [⟨false, true, true, false⟩] };
      s.busy = true ∧ s.nextEdge.rst = false ∧ s.txq ≠ [] ∧ s.nextEdge.txReady = false) ∧
    (let s : State := { answering with edges := [⟨false, true, false, true⟩] };
      s.busy = true ∧ s.nextEdge.rst = false ∧ s.txq = [] ∧ s.nextEdge.rspReady = false) ∧
    (let s : State := { base with edges := [⟨false, false, true, true⟩], requests := [0] };
      s.Idle ∧ s.nextEdge.rst = false ∧ s.nextEdge.reqValid = false) ∧
    (base.Idle ∧ base.nextEdge.rst = false ∧ base.requests = []) :=
  ⟨⟨rfl, rfl, by decide, rfl⟩, ⟨rfl, rfl, rfl, rfl⟩, ⟨⟨rfl, rfl, rfl, rfl⟩, rfl, rfl⟩, base_idle, rfl, rfl⟩

/-- ResetEdgeResetsTheBlock: in the middle of a request. -/
theorem witness_reset_edge : ({ sending with edges := [⟨true, true, true, true⟩] } : State).nextEdge.rst = true := rfl

/-- FaultIsStickyUntilReset: the fault's response is taken at this edge. -/
theorem witness_recorded_fault :
    let s : State := { answering with fault := true, cause := .digitRange, rsp := some ⟨false, 0x03⟩, requests := [0] }
    s.fault = true ∧ s.nextEdge.rst = false ∧ ∃ t, step s = .next t := ⟨rfl, rfl, _, rfl⟩

/-- HaltedBlockStopsUnlessReset: with a listed edge, and with none. -/
theorem witness_halted :
    (let s : State := { haltedState with edges := [Edge.ready] };
      s.Inv ∧ s.fault = true ∧ s.busy = false ∧ s.nextEdge.rst = false ∧ s.edges ≠ []) ∧
    (haltedState.Inv ∧ haltedState.fault = true ∧ haltedState.busy = false ∧ haltedState.nextEdge.rst = false ∧
      haltedState.edges = []) :=
  ⟨⟨halted_inv, rfl, rfl, rfl, by decide⟩, halted_inv, rfl, rfl, rfl, rfl⟩

/-- ChannelsExcludeEachOther: states that keep the invariant in which each channel is active. -/
theorem witness_channels :
    (sending.Inv ∧ sending.txValid false = true) ∧ (answering.Inv ∧ answering.rspValid false = true) ∧
    (base.Inv ∧ base.reqReady false = true) :=
  ⟨⟨⟨rfl, fun h => (by cases h), fun _ => rfl, by decide, fun h => (by cases h),
      fun r h => (by cases h; exact ⟨rfl, fun h => by cases h⟩), fixture_wf⟩, rfl⟩,
    ⟨⟨rfl, fun h => (by cases h), fun _ => rfl, by decide, fun h => (by cases h),
      fun r h => (by cases h; exact ⟨rfl, fun h => by cases h⟩), fixture_wf⟩, rfl⟩, base_inv, rfl⟩

/-- PortsCarryTheHeadEventAndTheResponse: a command and a data byte at the head, a response, and ports that are not valid. -/
theorem witness_ports :
    (sending.txq = .cmd 0xB8 :: [] ∧ ({ sending with txq := [.data 0x01] } : State).txq = .data 0x01 :: []) ∧
    (answering.rsp = some ⟨true, 0x00⟩ ∧ answering.txq = []) ∧
    (sending.txValid true = false ∧ answering.txValid false = false ∧ sending.rspValid false = false) :=
  ⟨⟨rfl, rfl⟩, ⟨rfl, rfl⟩, rfl, rfl, rfl⟩

/-- EveryStepKeepsTheInvariant, NoStepChangesTheConfiguration, ArbiterKeepsGroupsContiguous: a request that faults. -/
theorem witness_step_from_invariant :
    ({ base with requests := [0xD000010C] } : State).Inv ∧ ∃ t, step { base with requests := [0xD000010C] } = .next t :=
  ⟨inv_of_idle rfl rfl rfl rfl rfl rfl rfl, _, rfl⟩

/-- PendingRequestCompletes. -/
theorem witness_pending : sending.busy = true ∧ sending.rsp.isSome = true ∧ sending.AlwaysReady :=
  ⟨rfl, rfl, rfl, rfl⟩

/-- ClockedMachineRefinesSingleStepReading: a request list that completes, and one in which a request follows a fault. -/
theorem witness_request_lists :
    (let s : State := { base with requests := [0x10010101, 0x20000101] };
      s.Inv ∧ s.Idle ∧ s.AlwaysReady ∧ ∃ t, serveAll s.requests s = .next t) ∧
    (let s : State := { base with requests := [0xD000010C, 0x10010202] };
      s.Inv ∧ s.Idle ∧ s.AlwaysReady ∧ ∃ r, serveAll s.requests s = .fault r) :=
  ⟨⟨inv_of_idle rfl rfl rfl rfl rfl rfl rfl, ⟨rfl, rfl, rfl, rfl⟩, ⟨rfl, rfl⟩, _, rfl⟩,
    inv_of_idle rfl rfl rfl rfl rfl rfl rfl, ⟨rfl, rfl, rfl, rfl⟩, ⟨rfl, rfl⟩, _, rfl⟩

end Tests
end Sys2Proof
end

section
/-! PROOFS. The obligations of 10_state.md: the invariant, what a recorded fault keeps, the configuration, the fields of
`STATUS`, the response transfer, and what a request's outcome can depend on. -/

namespace Sys2Proof
namespace Machine

/-! ## The invariant and the operations of an edge -/

/-- Reset restores the invariant, whatever the block held (R251). -/
theorem inv_resetAction {s : State} (h : s.cfg.wf) : s.resetAction.Inv :=
  ⟨rfl, fun _ => ⟨rfl, rfl⟩, nofun, iff_of_true rfl rfl, nofun, nofun, h⟩

/-- The invariant does not speak of the pins. -/
theorem inv_passEdge {s : State} (h : s.Inv) : s.passEdge.Inv := h

/-- A `tx` transfer happens while BUSY is 1 and no fault is recorded, and takes an event off TXQ only (R30, R232). -/
theorem inv_takeTx {s : State} (h : s.Inv) (hq : s.txq ≠ []) : s.takeTx.Inv := by
  obtain ⟨hfb, hidle, hbusy, hcause, hfault, hrsp, hcfg⟩ := h
  exact ⟨hfb, fun hb => absurd (hidle hb).1 hq, hbusy, hcause, fun hf => absurd (hfault hf) hq, hrsp, hcfg⟩

/-- A `rsp` transfer leaves nothing pending (R26, R31). -/
theorem inv_takeRsp {s : State} (h : s.Inv) (hq : s.txq = []) : s.takeRsp.Inv := by
  obtain ⟨hfb, -, -, hcause, hfault, -, hcfg⟩ := h
  exact ⟨hfb, fun _ => ⟨hq, rfl⟩, nofun, hcause, hfault, nofun, hcfg⟩

/-- Serving a request from an accepting state, with nothing emitted yet and no fault recorded, reaches the invariant by
either of its endings: `ok`, or the fault entry (R226). -/
theorem inv_of_served {s t : State} (h : Served s t) (hfb : s.fb.wf = true) (hb : s.busy = true)
    (hq : s.txq = []) (hf : s.fault = false) (hc : s.cause = .none) (hcfg : s.cfg.wf) : t.Inv := by
  have hbusy : t.busy = true := h.busy.trans hb
  have hwf : t.cfg.wf := h.cfg ▸ hcfg
  rcases h.ends with ⟨hfault, hcause, d, hrsp⟩ | ⟨c, hne, rfl⟩
  · have hf' : t.fault = false := hfault.trans hf
    refine ⟨h.wf hfb, by simp [hbusy], by simp [hrsp], iff_of_true hf' (hcause.trans hc), by simp [hf'], ?_, hwf⟩
    rintro r hr
    obtain rfl : ⟨true, d⟩ = r := Option.some.inj (hrsp.symm.trans hr)
    simp [hf']
  · refine ⟨h.wf hfb, by simp [hb], by simp, iff_of_false (by simp) (by simpa using hne), fun _ => hq, ?_, hwf⟩
    rintro r hr
    obtain rfl : ⟨false, (causeCode c).setWidth 8⟩ = r := Option.some.inj hr
    simp

/-- `serve_served` for the next state at hand. -/
theorem served_of_serve {s t : State} {w : Word} (ht : serve w s = .next t) : Served s t := by
  obtain ⟨u, hu, hserved⟩ := serve_served w s
  obtain rfl : u = t := Host.Outcome.next.inj (hu.symm.trans ht)
  exact hserved

/-- Accepting a word from an idle, unfaulted block keeps the invariant (R64). -/
theorem inv_serve_accept {s t : State} {w : Word} (h : s.Inv) (hb : s.busy = false) (hf : s.fault = false)
    (ht : serve w s.accept = .next t) : t.Inv := by
  obtain ⟨hfb, hidle, -, hcause, -, -, hcfg⟩ := h
  exact inv_of_served (served_of_serve ht) hfb rfl (hidle hb).1 hf (hcause.mp hf) hcfg

/-- Settles O48: by the kind of edge (`step_cases`), each keeping the invariant by its own lemma. -/
theorem everyStepKeepsTheInvariant : Obligations.EveryStepKeepsTheInvariant := by
  intro s t hinv hstep
  have hpass : s.passEdge.Inv := inv_passEdge hinv
  cases step_cases hstep with
  | reset =>
    obtain ⟨-, -, -, -, -, -, hcfg⟩ := hinv
    exact inv_resetAction hcfg
  | tx _ hq => exact inv_takeTx hpass hq
  | rsp _ _ hq => exact inv_takeRsp hpass hq
  | req _ _ _ hb hf _ _ ht => exact inv_serve_accept hpass hb hf ht
  | hold => exact hpass

/-! ## What a request's outcome depends on -/

/-- The two states hold the same events, fault and configuration; framebuffer, cursor and response may differ. -/
structure ControlAgrees (s s' : State) : Prop where
  txq : s'.txq = s.txq
  fault : s'.fault = s.fault
  cause : s'.cause = s.cause
  cfg : s'.cfg = s.cfg

/-- What the outcomes `t` of `s` and `t'` of `s'` under request `i` share: the fault always, the events unless UPDATE
reads two framebuffers, the response unless GET_PIXEL or READ_PAGE_ROW does, each half of the cursor if it was shared
before. -/
structure OutcomeAgrees (i : Instr) (s s' t t' : State) : Prop where
  fault : t'.fault = t.fault
  cause : t'.cause = t.cause
  txq : s'.fb = s.fb ∨ i ≠ .update → t'.txq = t.txq
  rsp : s'.fb = s.fb ∨ ((∀ x y, i ≠ .getPixel x y) ∧ ∀ p c, i ≠ .readPageRow p c) → t'.rsp = t.rsp
  cursorX : s'.cursorX = s.cursorX → t'.cursorX = t.cursorX
  cursorY : s'.cursorY = s.cursorY → t'.cursorY = t.cursorY

section
variable {i : Instr} {s s' : State} (h : ControlAgrees s s')
include h

/-- Two runs that emit groups, equal unless UPDATE read two framebuffers, and respond alike. -/
theorem outcomeAgrees_emit {g g' : List TxEvent} (d : Byte) (hg : s'.fb = s.fb ∨ i ≠ .update → g' = g) :
    OutcomeAgrees i s s' ((s.emit g).respond true d) ((s'.emit g').respond true d) where
  fault := h.fault
  cause := h.cause
  txq hr := congrArg₂ (· ++ ·) h.txq (hg hr)
  rsp _ := rfl
  cursorX := id
  cursorY := id

/-- Two runs that only respond, with equal bytes unless a reader read two framebuffers. -/
theorem outcomeAgrees_respond {d d' : Byte}
    (hd : s'.fb = s.fb ∨ ((∀ x y, i ≠ .getPixel x y) ∧ ∀ p c, i ≠ .readPageRow p c) → d' = d) :
    OutcomeAgrees i s s' (s.respond true d) (s'.respond true d') where
  fault := h.fault
  cause := h.cause
  txq _ := h.txq
  rsp hr := by rw [respond_rsp, respond_rsp, hd hr]
  cursorX := id
  cursorY := id

/-- Two runs that write FB and respond alike: what is written is neither emitted nor answered. -/
theorem outcomeAgrees_setFb (m m' : Memory) (d : Byte) :
    OutcomeAgrees i s s' ((s.setFb m).respond true d) ((s'.setFb m').respond true d) :=
  ⟨h.fault, h.cause, fun _ => h.txq, fun _ => rfl, id, id⟩

/-- Two runs that take the same fault entry. -/
theorem outcomeAgrees_raise (c : Cause) : OutcomeAgrees i s s' (s.raise c) (s'.raise c) :=
  ⟨rfl, rfl, fun _ => h.txq, fun _ => rfl, id, id⟩

/-- RENDER_CHAR writes FB at the cursor and moves it, or skips its code: the code alone decides which (R131, R132). -/
theorem execRenderChar_agrees (code : BitVec 8) : ∃ t t', execRenderChar code s = .next t ∧
    execRenderChar code s' = .next t' ∧ OutcomeAgrees i s s' t t' := by
  by_cases hp : printable code.toNat = true
  · refine ⟨_, _, dif_pos hp, dif_pos hp, ?_⟩
    exact
      { fault := by simp [h.fault]
        cause := by simp [h.cause]
        txq := fun _ => by simp [h.txq]
        rsp := fun _ => by simp
        cursorX := fun hx => by simp [hx]
        cursorY := fun hy => by simp [hy] }
  · exact ⟨_, _, dif_neg hp, dif_neg hp, outcomeAgrees_respond h fun _ => rfl⟩

/-- RENDER_DIGIT emits or faults by its digit alone (R183, R223). -/
theorem execRenderDigit_agrees (digit position : BitVec 8) : ∃ t t', execRenderDigit digit position s = .next t ∧
    execRenderDigit digit position s' = .next t' ∧ OutcomeAgrees i s s' t t' := by
  by_cases hd : digit.toNat < 10
  · exact ⟨_, _, dif_pos hd, dif_pos hd, outcomeAgrees_emit h _ fun _ => by rw [h.cfg]⟩
  · exact ⟨_, _, dif_neg hd, dif_neg hd, outcomeAgrees_raise h _⟩

/-- CLOCK emits or faults by its two values alone (R158, R224). -/
theorem execClock_agrees (a b : BitVec 8) (sep : Bool) : ∃ t t', execClock a b sep s = .next t ∧
    execClock a b sep s' = .next t' ∧ OutcomeAgrees i s s' t t' := by
  by_cases hr : a.toNat ≤ 99 ∧ b.toNat ≤ 99
  · exact ⟨_, _, dif_pos hr, dif_pos hr, outcomeAgrees_emit h _ fun _ => by rw [h.cfg]⟩
  · exact ⟨_, _, dif_neg hr, dif_neg hr, outcomeAgrees_raise h _⟩

/-- Two runs of one request from states whose control agrees. -/
theorem exec_agrees (i : Instr) :
    ∃ t t', exec i s = .next t ∧ exec i s' = .next t' ∧ OutcomeAgrees i s s' t t' := by
  cases i with
  | clear => exact ⟨_, _, rfl, rfl, outcomeAgrees_setFb h _ _ _⟩
  | setPixel x y on => exact ⟨_, _, rfl, rfl, outcomeAgrees_setFb h _ _ _⟩
  | getPixel x y =>
    refine ⟨_, _, rfl, rfl, outcomeAgrees_respond h ?_⟩
    rintro (hfb | ⟨hne, -⟩)
    · rw [hfb]
    · exact absurd rfl (hne x y)
  | readPageRow page col =>
    refine ⟨_, _, rfl, rfl, outcomeAgrees_respond h ?_⟩
    rintro (hfb | ⟨-, hne⟩)
    · rw [hfb]
    · exact absurd rfl (hne page col)
  | setCursor x0 y0 =>
    exact ⟨_, _, rfl, rfl, h.fault, h.cause, fun _ => h.txq, fun _ => rfl, fun _ => rfl, fun _ => rfl⟩
  | renderChar code => exact execRenderChar_agrees h code
  | update =>
    refine ⟨_, _, rfl, rfl, outcomeAgrees_emit h _ ?_⟩
    rintro (hfb | hne)
    · rw [hfb, h.cfg]
    · exact absurd rfl hne
  | iconWrite col on => exact ⟨_, _, rfl, rfl, outcomeAgrees_emit h _ fun _ => by rw [h.cfg]⟩
  | signal level => exact ⟨_, _, rfl, rfl, outcomeAgrees_emit h _ fun _ => by rw [h.cfg]⟩
  | bell state => exact ⟨_, _, rfl, rfl, outcomeAgrees_emit h _ fun _ => by rw [h.cfg]⟩
  | message state => exact ⟨_, _, rfl, rfl, outcomeAgrees_emit h _ fun _ => by rw [h.cfg]⟩
  | network state => exact ⟨_, _, rfl, rfl, outcomeAgrees_emit h _ fun _ => by rw [h.cfg]⟩
  | battery level => exact ⟨_, _, rfl, rfl, outcomeAgrees_emit h _ fun _ => by rw [h.cfg]⟩
  | renderDigit digit position => exact execRenderDigit_agrees h digit position
  | clock a b sep => exact execClock_agrees h a b sep
  | reserved bits => exact ⟨_, _, rfl, rfl, outcomeAgrees_raise h _⟩

end

/-- Settles O36: two uses of `exec_agrees`, for another cursor over the same FB and another FB under the same cursor. -/
theorem onlyReadersRevealFramebufferAndNoneTheCursor :
    Obligations.OnlyReadersRevealFramebufferAndNoneTheCursor := by
  intro i s m cx cy
  have hcursor : ControlAgrees s { s with cursorX := cx, cursorY := cy } := ⟨rfl, rfl, rfl, rfl⟩
  have hfb : ControlAgrees s { s with fb := m } := ⟨rfl, rfl, rfl, rfl⟩
  obtain ⟨t, u, ht, hu, hc⟩ := exec_agrees hcursor i
  obtain ⟨t', v, ht', hv, hm⟩ := exec_agrees hfb i
  obtain rfl : t = t' := Host.Outcome.next.inj (ht.symm.trans ht')
  exact ⟨t, u, v, ht, hu, hv, hc.txq (.inl rfl), hc.rsp (.inl rfl), hc.fault, hc.cause, fun hne => hm.txq (.inr hne),
    fun hpixel hrow => hm.rsp (.inr ⟨hpixel, hrow⟩), hm.cursorX rfl, hm.cursorY rfl, hm.fault, hm.cause⟩

/-! ## What steps keep -/

/-- Settles O43: by the kind of edge; `rst` is excluded, and a request transfer needs FAULT = 0 (R232). -/
theorem faultIsStickyUntilReset : Obligations.FaultIsStickyUntilReset := by
  intro s t hfault hrst hstep
  cases step_cases hstep with
  | reset hr => exact absurd (hr.symm.trans hrst) (by decide)
  | tx => exact ⟨hfault, rfl, rfl, rfl, rfl, rfl⟩
  | rsp => exact ⟨hfault, rfl, rfl, rfl, rfl, rfl⟩
  | req _ _ _ _ hf => exact absurd (hfault.symm.trans hf) (by decide)
  | hold => exact ⟨hfault, rfl, rfl, rfl, rfl, rfl⟩

/-- Settles O49: by the kind of edge; an accepted word keeps the configuration by `served_of_serve` (R33). -/
theorem noStepChangesTheConfiguration : Obligations.NoStepChangesTheConfiguration := by
  intro s t hstep
  cases step_cases hstep with
  | reset => rfl
  | tx => rfl
  | rsp => rfl
  | req _ _ _ _ _ _ _ ht =>
    have hserved : Served s.passEdge.accept t := served_of_serve ht
    exact hserved.cfg
  | hold => rfl

/-! ## The fields of STATUS -/

/-- Bits 3:0 of STATUS are the constant zeros, FAULT and BUSY, whatever the cause (R25, R29). -/
theorem status_getLsbD_low (s : State) {i : Nat} (hi : i < 4) :
    s.status.getLsbD i = (0#2 ++ (BitVec.ofBool s.fault ++ BitVec.ofBool s.busy)).getLsbD i := by
  unfold State.status
  rw [BitVec.getLsbD_append, if_pos hi]

theorem status_bit0 (s : State) : s.status.getLsbD 0 = s.busy := by
  rw [status_getLsbD_low s (by decide)]
  simp only [BitVec.getLsbD_append]
  simp

theorem status_bit1 (s : State) : s.status.getLsbD 1 = s.fault := by
  rw [status_getLsbD_low s (by decide)]
  simp only [BitVec.getLsbD_append]
  simp

theorem status_bit2 (s : State) : s.status.getLsbD 2 = false := by
  rw [status_getLsbD_low s (by decide)]
  simp only [BitVec.getLsbD_append]
  simp

theorem status_bit3 (s : State) : s.status.getLsbD 3 = false := by
  rw [status_getLsbD_low s (by decide)]
  simp only [BitVec.getLsbD_append]
  simp

/-- Bits 7:4 of STATUS are the cause code (R28). -/
theorem status_high (s : State) : s.status.toNat / 16 = (causeCode s.cause).toNat := by
  have hlow := (0#2 ++ (BitVec.ofBool s.fault ++ BitVec.ofBool s.busy)).isLt
  rw [State.status, BitVec.toNat_append, ← Nat.shiftLeft_add_eq_or_of_lt hlow, Nat.shiftLeft_eq]
  omega

/-- Settles O34: bit by bit, and the code of each cause (R29). -/
theorem statusByteHasItsFields : Obligations.StatusByteHasItsFields := by
  intro s
  refine ⟨status_bit0 s, status_bit1 s, status_bit2 s, status_bit3 s, ?_⟩
  rw [status_high]
  cases s.cause <;> rfl

/-! ## The edge at which a response is taken -/

/-- A busy block is not halted, so an edge without `rst` is its transfer (R232). -/
theorem step_busy {s : State} (hb : s.busy = true) (hr : s.nextEdge.rst = false) :
    step s = transfer s.nextEdge s.passEdge := by
  simp [step, clockEdge, State.halted, hb, hr]

/-- With TXQ empty and a response pending, the transfer is the response's if the host is ready (R232). -/
theorem transfer_rsp {e : Edge} {s : State} (hq : s.txq = []) (hp : s.rsp.isSome = true) (hr : e.rst = false)
    (ht : e.rspReady = true) : transfer e s = .next s.takeRsp := by
  simp [transfer, State.txValid, State.rspValid, hq, hp, hr, ht]

/-- Settles O40: the step is the response transfer, which is the record update of the statement. -/
theorem responseTransferClearsBusy : Obligations.ResponseTransferClearsBusy := by
  intro s hb hq hp hr ht
  calc step s = transfer s.nextEdge s.passEdge := step_busy hb hr
    _ = .next s.passEdge.takeRsp := transfer_rsp hq hp hr ht

end Machine
end Sys2Proof
end

section
/-! PROOFS. The obligations of 20_memory.md: the address generator and the framebuffer it addresses, the paths of the
requests, the icon page, and the arbiter's runs against the single-step reading. -/

namespace Sys2Proof
namespace Machine
open Config

/-! ## The address generator and the framebuffer -/

/-- Settles O6: by the laws of the address generator (R50 to R52, R56). -/
theorem addressGeneratorIsOneToOneAndOnto : Obligations.AddressGeneratorIsOneToOneAndOnto :=
  ⟨fun _ _ => inB_iff,
    fun x y h => ⟨rfl, rfl, Nat.le_of_lt_succ (fbAddr_lt h), Nat.le_of_lt_succ (fbBit_lt x y)⟩,
    fun _ _ _ _ => addr_bit_inj,
    fun _ _ => addr_bit_surj⟩

/-- Settles O7: the two orders give each pixel the same value, and canonical framebuffers are their pixels. -/
theorem pixelWritesOfDistinctPixelsCommute : Obligations.PixelWritesOfDistinctPixelsCommute := by
  intro fb x1 y1 x2 y2 v1 v2 hwf hne
  have h1 : (pixelWrite fb x1 y1 v1).wf = true := pixelWrite_wf hwf x1 y1 v1
  have h2 : (pixelWrite fb x2 y2 v2).wf = true := pixelWrite_wf hwf x2 y2 v2
  refine pixel_ext (pixelWrite_wf h1 x2 y2 v2) (pixelWrite_wf h2 x1 y1 v1) fun x y _ => ?_
  rw [pixel_pixelWrite h1, pixel_pixelWrite h2, pixel_pixelWrite hwf, pixel_pixelWrite hwf]
  by_cases hp1 : x = x1 ∧ y = y1
  · obtain ⟨rfl, rfl⟩ := hp1
    have hp2 : ¬(x = x2 ∧ y = y2) := fun h => hne (Prod.ext h.1 h.2)
    simp [hp2]
  · simp [hp1]

/-- `exec_served` for the next state at hand. -/
theorem served_of_exec {i : Instr} {s t : State} (ht : exec i s = .next t) : Served s t := by
  obtain ⟨u, hu, hserved⟩ := exec_served i s
  obtain rfl : u = t := Host.Outcome.next.inj (hu.symm.trans ht)
  exact hserved

/-- An in-bounds pixel is its bit of its byte (R51, R54). -/
theorem pixel_of_inB {x y : Nat} (h : inB x y = true) (m : Memory) :
    pixel m x y = (m.read (y / 8 * 132 + x)).getLsbD (y % 8) := if_pos h

/-- Settles O8: canonical framebuffers are their pixels (`pixel_ext`), and each write keeps the form by its own law. -/
theorem framebufferFormIsCanonical : Obligations.FramebufferFormIsCanonical := by
  refine ⟨?_, fun m x y v h => pixelWrite_wf h x y v, fun m x y g h => (drawGlyph_spec h x y g).1, ?_,
    fun _ => cleared_wf, fun i s t hwf ht => (served_of_exec ht).wf hwf,
    fun w s t hwf ht => (served_of_serve ht).wf hwf⟩
  · intro m n hm hn hbits
    refine pixel_ext hm hn fun x y h => ?_
    obtain ⟨hx, hy⟩ := inB_iff.mp h
    rw [pixel_of_inB h, pixel_of_inB h]
    exact hbits x y hx hy
  · intro s t ht
    obtain rfl : (s.setFb Memory.cleared).respond true 0x00 = t := Host.Outcome.next.inj ht
    exact cleared_wf

/-! ## The paths of the requests -/

/-- The six requests of the pixel buffer and of the text renderer (R110 to R113, R130, R132). -/
def IsPixelOrText (i : Instr) : Prop :=
  i = .clear ∨ (∃ x y on, i = .setPixel x y on) ∨ (∃ x y, i = .getPixel x y) ∨ (∃ p c, i = .readPageRow p c) ∨
    (∃ x y, i = .setCursor x y) ∨ ∃ c, i = .renderChar c

/-- Request `i`, leading from `s` to `t`, writes FB and the cursor and emits only if it is one that may (R77, R136). -/
structure KeepsToPath (i : Instr) (s t : State) : Prop where
  fb : t.fb = s.fb ∨ i = .clear ∨ (∃ x y on, i = .setPixel x y on) ∨ ∃ c, i = .renderChar c
  cursorX : t.cursorX = s.cursorX ∨ (∃ x y, i = .setCursor x y) ∨ ∃ c, i = .renderChar c
  cursorY : t.cursorY = s.cursorY ∨ ∃ x y, i = .setCursor x y
  txq : IsPixelOrText i → t.txq = s.txq

/-- A request that only responds may be any. -/
theorem keepsToPath_respond (i : Instr) (s : State) (d : Byte) : KeepsToPath i s (s.respond true d) :=
  ⟨.inl rfl, .inl rfl, .inl rfl, fun _ => rfl⟩

/-- The fault entry touches neither FB nor the cursor nor TXQ (R226). -/
theorem keepsToPath_raise (i : Instr) (s : State) (c : Cause) : KeepsToPath i s (s.raise c) :=
  ⟨.inl rfl, .inl rfl, .inl rfl, fun _ => rfl⟩

/-- A request that emits is none of the six (R159, R184). -/
theorem keepsToPath_emit {i : Instr} (hi : ¬IsPixelOrText i) (s : State) (g : List TxEvent) (d : Byte) :
    KeepsToPath i s ((s.emit g).respond true d) :=
  ⟨.inl rfl, .inl rfl, .inl rfl, fun h => absurd h hi⟩

theorem renderChar_keepsToPath (code : BitVec 8) (s : State) :
    ∃ t, execRenderChar code s = .next t ∧ KeepsToPath (.renderChar code) s t := by
  by_cases hp : printable code.toNat = true
  · exact ⟨_, dif_pos hp, .inr (.inr (.inr ⟨code, rfl⟩)), .inr (.inr ⟨code, rfl⟩), .inl rfl, fun _ => rfl⟩
  · exact ⟨_, dif_neg hp, keepsToPath_respond _ s _⟩

theorem renderDigit_keepsToPath (digit position : BitVec 8) (s : State) :
    ∃ t, execRenderDigit digit position s = .next t ∧ KeepsToPath (.renderDigit digit position) s t := by
  by_cases hd : digit.toNat < 10
  · exact ⟨_, dif_pos hd, keepsToPath_emit (by simp [IsPixelOrText]) s _ _⟩
  · exact ⟨_, dif_neg hd, keepsToPath_raise _ s _⟩

theorem clock_keepsToPath (a b : BitVec 8) (sep : Bool) (s : State) :
    ∃ t, execClock a b sep s = .next t ∧ KeepsToPath (.clock a b sep) s t := by
  by_cases hr : a.toNat ≤ 99 ∧ b.toNat ≤ 99
  · exact ⟨_, dif_pos hr, keepsToPath_emit (by simp [IsPixelOrText]) s _ _⟩
  · exact ⟨_, dif_neg hr, keepsToPath_raise _ s _⟩

/-- Every request keeps to its path. -/
theorem exec_keepsToPath (i : Instr) (s : State) : ∃ t, exec i s = .next t ∧ KeepsToPath i s t := by
  cases i with
  | clear => exact ⟨_, rfl, .inr (.inl rfl), .inl rfl, .inl rfl, fun _ => rfl⟩
  | setPixel x y on => exact ⟨_, rfl, .inr (.inr (.inl ⟨x, y, on, rfl⟩)), .inl rfl, .inl rfl, fun _ => rfl⟩
  | getPixel x y => exact ⟨_, rfl, keepsToPath_respond _ s _⟩
  | readPageRow page col => exact ⟨_, rfl, keepsToPath_respond _ s _⟩
  | setCursor x0 y0 => exact ⟨_, rfl, .inl rfl, .inr (.inl ⟨x0, y0, rfl⟩), .inr ⟨x0, y0, rfl⟩, fun _ => rfl⟩
  | renderChar code => exact renderChar_keepsToPath code s
  | update => exact ⟨_, rfl, keepsToPath_emit (by simp [IsPixelOrText]) s _ _⟩
  | iconWrite col on => exact ⟨_, rfl, keepsToPath_emit (by simp [IsPixelOrText]) s _ _⟩
  | signal level => exact ⟨_, rfl, keepsToPath_emit (by simp [IsPixelOrText]) s _ _⟩
  | bell state => exact ⟨_, rfl, keepsToPath_emit (by simp [IsPixelOrText]) s _ _⟩
  | message state => exact ⟨_, rfl, keepsToPath_emit (by simp [IsPixelOrText]) s _ _⟩
  | network state => exact ⟨_, rfl, keepsToPath_emit (by simp [IsPixelOrText]) s _ _⟩
  | battery level => exact ⟨_, rfl, keepsToPath_emit (by simp [IsPixelOrText]) s _ _⟩
  | renderDigit digit position => exact renderDigit_keepsToPath digit position s
  | clock a b sep => exact clock_keepsToPath a b sep s
  | reserved bits => exact ⟨_, rfl, keepsToPath_raise _ s _⟩

/-- Settles O35: the path by `exec_keepsToPath`, the rest of the state by `exec_served`. -/
theorem eachRequestKeepsToItsPath : Obligations.EachRequestKeepsToItsPath := by
  intro i s
  obtain ⟨t, ht, hpath⟩ := exec_keepsToPath i s
  have hserved : Served s t := served_of_exec ht
  exact ⟨t, ht, hpath.fb, hpath.cursorX, hpath.cursorY, hpath.txq, hserved.txlog, hserved.cfg, hserved.busy,
    hserved.requests, hserved.edges, hserved.steady⟩

/-! ## The icon page -/

/-- An icon write at the head of a log: the page select, the column's two commands, one data byte (R150). -/
theorem iconWriteAtHead_eq_some_iff {cfg : Params} {c : Fin 132} {l : List TxEvent} {b : Byte} :
    iconWriteAtHead cfg c l = some b ↔ ∃ first second rest, [.cmd first, .cmd second] = columnCmds cfg c ∧
      l = .cmd cfg.pageCmd[cfg.iconPage] :: .cmd first :: .cmd second :: .data b :: rest := by
  constructor
  · intro h
    unfold iconWriteAtHead at h
    split at h
    · split at h
      · rename_i first second _ rest hc
        obtain ⟨rfl, hcols⟩ := hc
        obtain rfl := Option.some.inj h
        exact ⟨first, second, rest, hcols, rfl⟩
      · cases h
    · cases h
  · rintro ⟨first, second, rest, hcols, rfl⟩
    exact if_pos ⟨rfl, hcols⟩

/-- A log that begins with no select of the icon page begins with no icon write. -/
theorem iconWriteAtHead_of_page {cfg : Params} {p : Byte} (hp : p ≠ cfg.pageCmd[cfg.iconPage]) (c : Fin 132)
    (l : List TxEvent) : iconWriteAtHead cfg c (.cmd p :: l) = none := by
  refine Option.eq_none_iff_forall_ne_some.mpr fun b h => ?_
  obtain ⟨first, second, rest, -, hl⟩ := iconWriteAtHead_eq_some_iff.mp h
  exact hp (by simpa using (List.cons.inj hl).1)

/-- The third event of an icon write is a command. -/
theorem iconWriteAtHead_of_third {l : List TxEvent} (h : ∀ e, l[2]? = some e → e.dataByte ≠ none) (cfg : Params)
    (c : Fin 132) : iconWriteAtHead cfg c l = none := by
  refine Option.eq_none_iff_forall_ne_some.mpr fun b hb => ?_
  obtain ⟨first, second, rest, -, rfl⟩ := iconWriteAtHead_eq_some_iff.mp hb
  exact h _ rfl rfl

/-- The fourth event of an icon write carries data. -/
theorem iconWriteAtHead_of_fourth {l : List TxEvent} (h : ∀ e, l[3]? = some e → e.dataByte = none) (cfg : Params)
    (c : Fin 132) : iconWriteAtHead cfg c l = none := by
  refine Option.eq_none_iff_forall_ne_some.mpr fun b hb => ?_
  obtain ⟨first, second, rest, -, rfl⟩ := iconWriteAtHead_eq_some_iff.mp hb
  cases h _ rfl

/-- The group's first three events, as far as it has so many, are commands (R150, R200). -/
def OpensWithCommands (g : List TxEvent) : Prop := ∀ e ∈ g.take 3, e.dataByte = none

/-- A group that opens with commands completes no icon write that the log before it began. -/
theorem iconWriteAtHead_append {g : List TxEvent} (hg : OpensWithCommands g) (cfg : Params) (c : Fin 132)
    {log : List TxEvent} (hlog : log ≠ []) : iconWriteAtHead cfg c (log ++ g) = iconWriteAtHead cfg c log := by
  have hpos : 0 < log.length := List.length_pos_iff.mpr hlog
  by_cases hshort : log.length ≤ 3
  · have hfourth : ∀ e, (log ++ g)[3]? = some e → e.dataByte = none := by
      intro e he
      rw [List.getElem?_append_right hshort] at he
      refine hg e (List.mem_of_getElem? (i := 3 - log.length) ?_)
      rwa [List.getElem?_take_of_lt (by omega)]
    have hnone : ∀ e, log[3]? = some e → e.dataByte = none := by
      simp [List.getElem?_eq_none hshort]
    rw [iconWriteAtHead_of_fourth hfourth, iconWriteAtHead_of_fourth hnone]
  · match log with
    | e0 :: e1 :: e2 :: e3 :: rest =>
      refine Option.ext fun b => ?_
      simp [iconWriteAtHead_eq_some_iff]
    | [] | [_] | [_, _] | [_, _, _] => exact absurd (by simp) hshort

/-- The icon writes of a log and of a group after it that opens with commands are those of each. -/
theorem iconDataOf_append {g : List TxEvent} (hg : OpensWithCommands g) (cfg : Params) (c : Fin 132)
    (log : List TxEvent) : iconDataOf cfg c (log ++ g) = iconDataOf cfg c log ++ iconDataOf cfg c g := by
  induction log with
  | nil => rfl
  | cons e log ih =>
    have hhead := iconWriteAtHead_append hg cfg c (List.cons_ne_nil e log)
    rw [List.cons_append] at hhead ⊢
    simp only [iconDataOf, hhead, ih, List.append_assoc]

/-- Where only the first two events can be commands there is no icon write. -/
theorem iconDataOf_eq_nil {l : List TxEvent} (h : ∀ e ∈ l.drop 2, e.dataByte ≠ none) (cfg : Params) (c : Fin 132) :
    iconDataOf cfg c l = [] := by
  induction l with
  | nil => rfl
  | cons e l ih =>
    have htail : ∀ e' ∈ l.drop 1, e'.dataByte ≠ none := h
    have hhead : iconWriteAtHead cfg c (e :: l) = none :=
      iconWriteAtHead_of_third (fun e' he' => htail e' (List.mem_of_getElem? (i := 0) (by simpa using he'))) cfg c
    have hrest : iconDataOf cfg c l = [] :=
      ih fun e' he' => htail e' (List.drop_subset_drop_left l (by decide) he')
    rw [iconDataOf, hhead, hrest]
    rfl

/-- UPDATE's page selects are of pages 0 to 7, the icon page lies above them, and `PAGE_CMD` is injective (R9, R63). -/
theorem pageCmd_ne_iconPage {cfg : Params} (hcfg : cfg.wf) (p : Fin PAGES) :
    cfg.pageCmd[p.val] ≠ cfg.pageCmd[cfg.iconPage] := by
  obtain ⟨-, hpage, -, hinj⟩ := hcfg
  intro h
  have heq : (⟨p.val, by omega⟩ : Fin 16) = cfg.iconPage := hinj _ _ h
  have : p.val = cfg.iconPage.val := congrArg Fin.val heq
  omega

/-- In either order the two column commands are commands (R150). -/
theorem columnCmds_dataByte {cfg : Params} {c : Fin 132} {e : TxEvent} (h : e ∈ columnCmds cfg c) :
    e.dataByte = none := by
  unfold columnCmds at h
  split at h
  · obtain rfl | rfl := List.mem_pair.mp h <;> rfl
  · obtain rfl | rfl := List.mem_pair.mp h <;> rfl

/-- A page of UPDATE writes no icon: its one run of three commands selects no icon page (R200). -/
theorem iconDataOf_pageEvents {cfg : Params} (hcfg : cfg.wf) (fb : Memory) (p : Fin PAGES) (c : Fin 132) :
    iconDataOf cfg c (pageEvents cfg fb p) = [] := by
  rw [pageEvents, iconDataOf, iconWriteAtHead_of_page (pageCmd_ne_iconPage hcfg p), iconDataOf_eq_nil]
  · rfl
  · rw [List.drop_left' (columnCmds_length cfg 0)]
    simp [TxEvent.dataByte]

/-- Every page of UPDATE, and so every run of pages, opens with its page select and column commands (R200). -/
theorem opensWithCommands_pages (cfg : Params) (fb : Memory) (ps : List (Fin PAGES)) :
    OpensWithCommands (ps.flatMap (pageEvents cfg fb)) := by
  cases ps with
  | nil => exact nofun
  | cons p ps =>
    intro e he
    have hopen : (pageEvents cfg fb p ++ ps.flatMap (pageEvents cfg fb)).take 3 =
        .cmd cfg.pageCmd[p.val] :: columnCmds cfg 0 := by
      rw [pageEvents, List.cons_append, List.take_succ_cons, List.append_assoc,
        List.take_left' (columnCmds_length cfg 0)]
    rw [List.flatMap_cons, hopen] at he
    rcases List.mem_cons.mp he with rfl | hcol
    · rfl
    · exact columnCmds_dataByte hcol

theorem iconDataOf_pages {cfg : Params} (hcfg : cfg.wf) (fb : Memory) (ps : List (Fin PAGES)) (c : Fin 132) :
    iconDataOf cfg c (ps.flatMap (pageEvents cfg fb)) = [] := by
  induction ps with
  | nil => rfl
  | cons p ps ih =>
    rw [List.flatMap_cons, iconDataOf_append (opensWithCommands_pages cfg fb ps), iconDataOf_pageEvents hcfg, ih]
    rfl

/-- Settles O29: UPDATE's pages open with commands and hold no icon write, so they add nothing to the icon data. -/
theorem updateNeverDisturbsIcons : Obligations.UpdateNeverDisturbsIcons := by
  intro cfg fb log c hcfg
  have hlog : iconDataOf cfg c (log ++ updateEvents cfg fb) = iconDataOf cfg c log := by
    rw [updateEvents, iconDataOf_append (opensWithCommands_pages cfg fb _), iconDataOf_pages hcfg, List.append_nil]
  exact ⟨pageCmd_ne_iconPage hcfg, by rw [iconView, iconView, hlog]⟩

/-! ## The arbiter -/

/-- An idle block's edge is the transfer of the request it is offered (R64, R232). -/
theorem step_idle {s : State} {w : Word} (h : s.Idle) (hr : s.nextEdge.rst = false) (hv : s.nextEdge.reqValid = true)
    (hw : s.requests.head? = some w) : step s = serve w s.passEdge.accept := by
  obtain ⟨hb, hf, hq, hp⟩ := h
  simp [step, clockEdge, transfer, State.halted, State.txValid, State.rspValid, State.reqReady, State.offered,
    hb, hf, hq, hp, hr, hv, hw]

/-- A word that decodes is served by its request's meaning (R64, R84). -/
theorem serve_decoded {w : Word} {i : Instr} (h : decode w = .ok i) (s : State) : serve w s = exec i s := by
  simp [serve, h]

/-- Settles O37: the edge is the request's transfer, and the word's request is what is served. -/
theorem stepRunsTheOfferedRequest : Obligations.StepRunsTheOfferedRequest := by
  intro s w i hidle hr hv hw hdec
  calc step s = serve w s.passEdge.accept := step_idle hidle hr hv hw
    _ = exec i s.passEdge.accept := serve_decoded hdec _

/-- Under the invariant a block with BUSY = 0 and no fault is idle (R26, R31). -/
theorem idle_of_inv {s : State} (h : s.Inv) (hb : s.busy = false) (hf : s.fault = false) : s.Idle := by
  obtain ⟨-, hpending, -⟩ := h
  exact ⟨hb, hf, hpending hb⟩

/-- A `tx` transfer takes from TXQ exactly the event it appends to the log (R232). -/
theorem take_one_append_tail (q : List TxEvent) : q.take 1 ++ q.tail = q := by
  rw [← List.drop_one, List.take_append_drop]

/-- Settles O50: by the kind of edge. A `tx` transfer moves the head of TXQ, a `rsp` transfer and an edge without a
transfer move nothing, and a request transfer finds the block idle. -/
theorem arbiterKeepsGroupsContiguous : Obligations.ArbiterKeepsGroupsContiguous := by
  intro s t hinv hstep
  cases step_cases hstep with
  | reset hr => exact .inl ⟨hr, rfl, rfl⟩
  | tx =>
    exact .inr (.inl ⟨s.txq.take 1, List.length_take_le 1 s.txq, (take_one_append_tail s.txq).symm, rfl⟩)
  | rsp => exact .inr (.inl ⟨[], Nat.zero_le 1, rfl, (List.append_nil _).symm⟩)
  | req w t _ hb hf _ hw ht =>
    have hserved : Served s.passEdge.accept t := served_of_serve ht
    exact .inr (.inr ⟨w, idle_of_inv hinv hb hf, hw, hserved.txlog, ht⟩)
  | hold => exact .inr (.inl ⟨[], Nat.zero_le 1, rfl, (List.append_nil _).symm⟩)

/-! ## Runs with an environment that is always ready -/

theorem nextEdge_alwaysReady {s : State} (h : s.AlwaysReady) : s.nextEdge = Edge.ready := by
  simp [State.nextEdge, h.1, h.2]

/-- With no listed edge there is none to pass. -/
theorem passEdge_alwaysReady {s : State} (h : s.AlwaysReady) : s.passEdge = s := by
  have htail : s.edges.tail = s.edges := by rw [h.1]; rfl
  exact congrArg (fun es => { s with edges := es }) htail

/-- With an event pending, the transfer is the transport's if it is ready (R232). -/
theorem transfer_tx {e : Edge} {s : State} (hq : s.txq ≠ []) (hr : e.rst = false) (ht : e.txReady = true) :
    transfer e s = .next s.takeTx := by
  simp [transfer, State.txValid, hq, hr, ht]

theorem step_alwaysReady_tx {s : State} (h : s.AlwaysReady) (hb : s.busy = true) (hq : s.txq ≠ []) :
    step s = .next s.takeTx := by
  rw [step_busy hb (by rw [nextEdge_alwaysReady h]; rfl), nextEdge_alwaysReady h, passEdge_alwaysReady h,
    transfer_tx hq rfl rfl]

theorem step_alwaysReady_rsp {s : State} (h : s.AlwaysReady) (hb : s.busy = true) (hp : s.rsp.isSome = true)
    (hq : s.txq = []) : step s = .next s.takeRsp := by
  rw [step_busy hb (by rw [nextEdge_alwaysReady h]; rfl), nextEdge_alwaysReady h, passEdge_alwaysReady h,
    transfer_rsp hq hp rfl rfl]

theorem step_alwaysReady_req {s : State} {w : Word} (h : s.AlwaysReady) (hidle : s.Idle)
    (hw : s.requests.head? = some w) : step s = serve w s.accept := by
  have hedge := nextEdge_alwaysReady h
  rw [step_idle hidle (by rw [hedge]; rfl) (by rw [hedge]; rfl) hw, passEdge_alwaysReady h]

/-- No edge is left that could reset a block halted by a fault (R228). -/
theorem step_alwaysReady_halted {s : State} (h : s.AlwaysReady) (hb : s.busy = false) (hf : s.fault = true) :
    step s = .fault (.haltedUntilReset s.cause) := by
  simp [step, clockEdge, State.halted, nextEdge_alwaysReady h, Edge.ready, h.1, hb, hf]

/-- Taking an event first leaves the same completed state. -/
theorem complete_takeTx (s : State) : s.takeTx.complete = s.complete := by
  have hlog : s.txlog ++ s.txq.take 1 ++ s.txq.tail = s.txlog ++ s.txq := by
    rw [List.append_assoc, take_one_append_tail]
  simp [State.complete, State.takeTx, hlog]

/-- Taking the response completes a request that has nothing left to emit. -/
theorem takeRsp_eq_complete {s : State} (hq : s.txq = []) : s.takeRsp = s.complete := by
  simp [State.complete, State.takeRsp, hq]

/-- A request in progress completes in one step for each pending event and one for its response. -/
theorem run_complete {s : State} (h : s.AlwaysReady) (hb : s.busy = true) (hp : s.rsp.isSome = true) :
    core.run (s.txq.length + 1) s = .next s.complete := by
  generalize hq : s.txq = q
  induction q generalizing s with
  | nil =>
    rw [← takeRsp_eq_complete hq]
    exact run_next 0 (step_alwaysReady_rsp h hb hp hq)
  | cons e q ih =>
    have hne : s.txq ≠ [] := hq ▸ List.cons_ne_nil e q
    have htail : s.takeTx.txq = q := by simp [hq]
    rw [← complete_takeTx s]
    calc core.run ((e :: q).length + 1) s = core.run (q.length + 1) s.takeTx :=
          run_next _ (step_alwaysReady_tx h hb hne)
      _ = .next s.takeTx.complete := ih h hb hp htail

/-- Settles O51: by induction on the pending events (`run_complete`). -/
theorem pendingRequestCompletes : Obligations.PendingRequestCompletes :=
  fun _ hb hp h => run_complete h hb hp

/-! ## The single-step reading -/

/-- Either ending of a request leaves a response pending (R64, R226). -/
theorem Served.rsp_isSome {s t : State} (h : Served s t) : t.rsp.isSome = true := by
  rcases h.ends with ⟨-, -, d, hrsp⟩ | ⟨c, -, rfl⟩
  · rw [hrsp]
    rfl
  · rfl

/-- The clocked machine's run of the host's list has the outcome of the single-step reading: between two requests nothing
is pending, though a fault may be recorded. -/
theorem run_eq_serveAll (ws : List Word) {s : State} (hws : s.requests = ws) (h : s.AlwaysReady)
    (hb : s.busy = false) (hq : s.txq = []) (hp : s.rsp = none) : ∃ n, core.run n s = serveAll ws s := by
  induction ws generalizing s with
  | nil => exact ⟨0, rfl⟩
  | cons w ws ih =>
    cases hf : s.fault with
    | true => exact ⟨1, (run_fault 0 (step_alwaysReady_halted h hb hf)).trans (if_pos hf).symm⟩
    | false =>
      obtain ⟨t, ht, hserved⟩ := serve_served w s.accept
      have hstep : step s = .next t := (step_alwaysReady_req h ⟨hb, hf, hq, hp⟩ (by rw [hws]; rfl)).trans ht
      have hready : t.AlwaysReady := ⟨hserved.edges.trans h.1, hserved.steady.trans h.2⟩
      have hrun : core.run (t.txq.length + 1 + 1) s = .next t.complete :=
        (run_next _ hstep).trans (run_complete hready hserved.busy hserved.rsp_isSome)
      have hlist : t.complete.requests = ws := by simp [hserved.requests, hws]
      obtain ⟨n, hn⟩ := ih hlist hready rfl rfl rfl
      refine ⟨t.txq.length + 1 + 1 + n, ?_⟩
      rw [run_add n hrun, hn, serveAll, if_neg (by simp [hf]), ht]

/-- Settles O52: the run that `run_eq_serveAll` gives, for the list that ends and for the one that faults. -/
theorem clockedMachineRefinesSingleStepReading : Obligations.ClockedMachineRefinesSingleStepReading := by
  rintro s - ⟨hb, -, hq, hp⟩ hready
  obtain ⟨n, hn⟩ := run_eq_serveAll s.requests rfl hready hb hq hp
  exact ⟨fun t ht => ⟨n, hn.trans ht⟩, fun r hr => ⟨n, hn.trans hr⟩⟩

end Machine
end Sys2Proof
end

section
/-! PROOFS. The obligations of 30_encoding.md: the decoder as one reserved-bit check of the request that a word's fields
name, the round trips of R81 and R84, the reserved-zero bits of R81, and the assembler of R87 and R88. -/

namespace Sys2Proof

/-! ## The fields of a word -/

/-- A word is its opcode over its low 28 bits (R80). -/
theorem opcodeOf_append_low (w : Word) : opcodeOf w ++ w.extractLsb' 0 28 = w :=
  BitVec.extractLsb'_append_extractLsb' (len := 28) (w := 4)

/-- A word is its fields in the layout of R81, the bits 27..17 that no format uses among them. -/
theorem append_fields (w : Word) :
    opcodeOf w ++ (w.extractLsb' 17 11 ++ (BitVec.ofBool (fieldE w) ++ (fieldB w ++ fieldA w))) = w := by
  have hE : BitVec.ofBool (fieldE w) = w.extractLsb' 16 1 := by
    refine BitVec.eq_of_getLsbD_eq fun i hi => ?_
    obtain rfl : i = 0 := by omega
    simp [fieldE]
  have hBA : fieldB w ++ fieldA w = w.extractLsb' 0 16 := BitVec.extractLsb'_append_extractLsb'_eq_extractLsb' rfl
  have hEBA : w.extractLsb' 16 1 ++ w.extractLsb' 0 16 = w.extractLsb' 0 17 :=
    BitVec.extractLsb'_append_extractLsb'_eq_extractLsb' rfl
  have hlow : w.extractLsb' 17 11 ++ w.extractLsb' 0 17 = w.extractLsb' 0 28 :=
    BitVec.extractLsb'_append_extractLsb'_eq_extractLsb' rfl
  rw [hE, hBA, hEBA, hlow, opcodeOf_append_low]

/-- The bits of a word that the opcode's mask keeps. -/
theorem and_opcodeMask (w : Word) : w &&& 0xF0000000#32 = opcodeOf w ++ 0#28 :=
  calc w &&& 0xF0000000#32 = (opcodeOf w ++ w.extractLsb' 0 28) &&& (0xF#4 ++ 0#28) := by rw [opcodeOf_append_low]; rfl
    _ = (opcodeOf w &&& 0xF#4) ++ 0#28 := by rw [BitVec.and_append, BitVec.and_zero]
    _ = opcodeOf w ++ 0#28 := congrArg (· ++ 0#28) BitVec.and_allOnes

/-- A word none of whose bits in `m` is set keeps all its bits under the complement of `m`. -/
theorem and_not_eq_self {w m : Word} (h : w &&& m = 0#32) : w &&& ~~~m = w :=
  calc w &&& ~~~m = (w &&& m) ||| (w &&& ~~~m) := by rw [h, BitVec.zero_or]
    _ = w := by ext i; simp [← Bool.and_or_distrib_left]

/-- A word with no reserved-zero bit set is assembled from those of its operands that its format keeps (R81). -/
theorem assembleFields_of_masked {w m : Word} (hz : w &&& m = 0#32) (me : Bool) (mb ma : BitVec 8)
    (hm : ~~~m = 0xF#4 ++ (0#11 ++ (BitVec.ofBool me ++ (mb ++ ma)))) :
    assembleFields (opcodeOf w) (fieldE w && me) (fieldB w &&& mb) (fieldA w &&& ma) = w := by
  have hop : opcodeOf w &&& 0xF#4 = opcodeOf w := BitVec.and_allOnes
  have hkept : w &&& ~~~m = w := and_not_eq_self hz
  rw [hm, ← append_fields w, BitVec.and_append, BitVec.and_append, BitVec.and_append, BitVec.and_append, hop,
    BitVec.and_zero, BitVec.ofBool_and_ofBool, append_fields] at hkept
  exact hkept

/-- A byte under the mask of a whole byte. -/
@[simp] theorem and_byteMask (b : BitVec 8) : b &&& 0xFF#8 = b := BitVec.and_allOnes

/-! One lemma for each format of R81: without reserved-zero bits the word is its opcode and the operands it keeps. -/

section Formats
variable {w : Word} {op : BitVec 4}

theorem assembleFields_of_F0 (hop : opcodeOf w = op) (h : w &&& 0x0FFFFFFF#32 = 0#32) :
    assembleFields op false 0 0 = w := by
  simpa [hop] using assembleFields_of_masked h false 0 0 rfl

theorem assembleFields_of_FA (hop : opcodeOf w = op) (h : w &&& 0x0FFFFF00#32 = 0#32) :
    assembleFields op false 0 (fieldA w) = w := by
  simpa [hop] using assembleFields_of_masked h false 0 0xFF rfl

theorem assembleFields_of_FAB (hop : opcodeOf w = op) (h : w &&& 0x0FFF0000#32 = 0#32) :
    assembleFields op false (fieldB w) (fieldA w) = w := by
  simpa [hop] using assembleFields_of_masked h false 0xFF 0xFF rfl

theorem assembleFields_of_FABE (hop : opcodeOf w = op) (h : w &&& 0x0FFE0000#32 = 0#32) :
    assembleFields op (fieldE w) (fieldB w) (fieldA w) = w := by
  simpa [hop] using assembleFields_of_masked h true 0xFF 0xFF rfl

theorem assembleFields_of_FAE (hop : opcodeOf w = op) (h : w &&& 0x0FFEFF00#32 = 0#32) :
    assembleFields op (fieldE w) 0 (fieldA w) = w := by
  simpa [hop] using assembleFields_of_masked h true 0 0xFF rfl

theorem assembleFields_of_FE (hop : opcodeOf w = op) (h : w &&& 0x0FFEFFFF#32 = 0#32) :
    assembleFields op (fieldE w) 0 0 = w := by
  simpa [hop] using assembleFields_of_masked h true 0 0 rfl

end Formats

/-! ## The decoder as one check -/

/-- The request that a word's opcode and operand fields name (R81, R83), whatever its reserved-zero bits are. -/
def requestOf (w : Word) : Instr :=
  match (opcodeOf w).toNat with
  | 0x0 => .clear
  | 0x1 => .setPixel (fieldA w) (fieldB w) (fieldE w)
  | 0x2 => .getPixel (fieldA w) (fieldB w)
  | 0x3 => .readPageRow (fieldB w) (fieldA w)
  | 0x4 => .setCursor (fieldA w) (fieldB w)
  | 0x5 => .renderChar (fieldA w)
  | 0x6 => .update
  | 0x7 => .iconWrite (fieldA w) (fieldE w)
  | 0x8 => .signal (fieldA w)
  | 0x9 => .bell (fieldE w)
  | 0xA => .message (fieldE w)
  | 0xB => .network (fieldA w)
  | 0xC => .battery (fieldA w)
  | 0xD => .renderDigit (fieldA w) (fieldB w)
  | 0xE => .clock (fieldA w) (fieldB w) (fieldE w)
  | _ => .reserved (w.extractLsb' 0 28)

/-- The reserved-zero bits of the request's format: its row's mask without the opcode's bits (R81, R83). -/
def reservedZero (i : Instr) : Word := rowMask i &&& 0x0FFFFFFF

/-- A row's match is its opcode over zeros (R83). -/
theorem rowMatch_requestOf (w : Word) : rowMatch (requestOf w) = opcodeOf w ++ 0#28 := by
  have hlt : (opcodeOf w).toNat < 16 := (opcodeOf w).isLt
  have hop : opcodeOf w = BitVec.ofNat 4 (opcodeOf w).toNat := by simp
  rw [hop]
  unfold requestOf
  interval_cases (opcodeOf w).toNat <;> rfl

/-- A row's mask is the opcode's bits and the format's reserved-zero bits (R83). -/
theorem rowMask_eq (i : Instr) : rowMask i = 0xF0000000#32 ||| reservedZero i := by
  cases i <;>
  · simp only [rowMask, reservedZero]
    decide

/-- The check of a row passes exactly when no reserved-zero bit is set, since the opcode chose the row (R84). -/
theorem and_rowMask_eq_rowMatch_iff (w : Word) :
    w &&& rowMask (requestOf w) = rowMatch (requestOf w) ↔ w &&& reservedZero (requestOf w) = 0#32 := by
  constructor
  · intro h
    calc w &&& reservedZero (requestOf w)
      _ = w &&& rowMask (requestOf w) &&& 0x0FFFFFFF#32 := (BitVec.and_assoc ..).symm
      _ = (opcodeOf w ++ 0#28) &&& (0#4 ++ BitVec.allOnes 28) := by rw [h, rowMatch_requestOf]; rfl
      _ = 0#32 := by rw [BitVec.and_append, BitVec.zero_and, BitVec.and_zero]; rfl
  · intro h
    rw [rowMask_eq, BitVec.and_or_distrib_left, and_opcodeMask, h, BitVec.or_zero, rowMatch_requestOf]

/-- The decoder checks the request that the word's fields name against its own row, the reserved row included: under its
mask, which is the opcode alone, every word of opcode 0xF matches (R83, R84). -/
theorem decode_eq_checked (w : Word) :
    decode w = checked w (rowMask (requestOf w)) (rowMatch (requestOf w)) (requestOf w) := by
  have hlt : (opcodeOf w).toNat < 16 := (opcodeOf w).isLt
  unfold decode requestOf
  interval_cases hop : (opcodeOf w).toNat
  on_goal 16 =>
    have hF : opcodeOf w = 0xF#4 := BitVec.eq_of_toNat_eq hop
    exact (checked_ok ((and_opcodeMask w).trans (by rw [hF]; rfl))).symm
  all_goals rfl

/-- The fields of a request's word name the request (R81, R83). -/
theorem requestOf_encode (i : Instr) : requestOf (encode i) = i := by
  cases i with
  | reserved bits =>
    have hop : opcodeOf (0xF#4 ++ bits) = 0xF#4 := BitVec.extractLsb'_append_eq_left
    have hbits : (0xF#4 ++ bits).extractLsb' 0 28 = bits := BitVec.extractLsb'_append_eq_right
    simp [requestOf, encode, hop, hbits]
  | _ => simp [requestOf, encode]

/-- A word with no reserved-zero bit set is the word of the request that its fields name: by opcode, each with the
format of its row (R81, R83). -/
theorem encode_requestOf {w : Word} (h : w &&& reservedZero (requestOf w) = 0#32) : encode (requestOf w) = w := by
  have hlt : (opcodeOf w).toNat < 16 := (opcodeOf w).isLt
  have hop : opcodeOf w = BitVec.ofNat 4 (opcodeOf w).toNat := by simp
  unfold requestOf at h ⊢
  interval_cases (opcodeOf w).toNat
  all_goals simp only [reservedZero, rowMask, BitVec.reduceAnd] at h
  · exact assembleFields_of_F0 hop h
  · exact assembleFields_of_FABE hop h
  · exact assembleFields_of_FAB hop h
  · exact assembleFields_of_FAB hop h
  · exact assembleFields_of_FAB hop h
  · exact assembleFields_of_FA hop h
  · exact assembleFields_of_F0 hop h
  · exact assembleFields_of_FAE hop h
  · exact assembleFields_of_FA hop h
  · exact assembleFields_of_FE hop h
  · exact assembleFields_of_FE hop h
  · exact assembleFields_of_FA hop h
  · exact assembleFields_of_FA hop h
  · exact assembleFields_of_FAB hop h
  · exact assembleFields_of_FABE hop h
  · exact (congrArg (· ++ _) hop.symm).trans (opcodeOf_append_low w)

/-- The decoder answers the request its fields name, or rejects the word for a reserved-zero bit (R84). -/
theorem decode_eq (w : Word) :
    decode w = if w &&& reservedZero (requestOf w) = 0#32 then .ok (requestOf w) else .error .reservedBits := by
  rw [decode_eq_checked, checked]
  simp only [and_rowMask_eq_rowMatch_iff]

/-- The word of a request is a word of its row (R83, R84). -/
theorem encode_and_rowMask (i : Instr) : encode i &&& rowMask i = rowMatch i := by
  cases i with
  | clear => exact Laws.RowWord.clear
  | setPixel x y on => exact Laws.RowWord.setPixel x y on
  | getPixel x y => exact Laws.RowWord.getPixel x y
  | readPageRow page col => exact Laws.RowWord.readPageRow page col
  | setCursor x0 y0 => exact Laws.RowWord.setCursor x0 y0
  | renderChar code => exact Laws.RowWord.renderChar code
  | update => exact Laws.RowWord.update
  | iconWrite col on => exact Laws.RowWord.iconWrite col on
  | signal level => exact Laws.RowWord.signal level
  | bell state => exact Laws.RowWord.bell state
  | message state => exact Laws.RowWord.message state
  | network state => exact Laws.RowWord.network state
  | battery level => exact Laws.RowWord.battery level
  | renderDigit digit position => exact Laws.RowWord.renderDigit digit position
  | clock segment1 segment2 separator => exact Laws.RowWord.clock segment1 segment2 separator
  | reserved bits => exact Laws.RowWord.reserved bits

/-! ## The round trips and the rejected words -/

/-- The fields of a request's word name the request, and the word passes its row's check. -/
theorem decode_encode (i : Instr) : decode (encode i) = .ok i := by
  rw [decode_eq_checked, requestOf_encode]
  exact checked_ok (encode_and_rowMask i)

/-- Settles O1: by `decode_encode`. -/
theorem encodeThenDecodeGivesTheRequest : Obligations.EncodeThenDecodeGivesTheRequest := decode_encode

/-- Settles O2: the word passed its row's check, so no reserved-zero bit is set and its fields are the whole word. -/
theorem decodeThenEncodeGivesTheWord : Obligations.DecodeThenEncodeGivesTheWord := by
  intro w i h
  rw [decode_eq_checked] at h
  obtain ⟨hmask, rfl⟩ := checked_cases h
  exact encode_requestOf ((and_rowMask_eq_rowMatch_iff w).mp hmask)

/-- Settles O3: by `decode_eq`, the statement's mask being `reservedZero` of the request that the opcode chooses. -/
theorem decodeRejectsExactlyReservedBits : Obligations.DecodeRejectsExactlyReservedBits := by
  intro w
  constructor
  · intro (hop : opcodeOf w = 0xF#4)
    simp [decode, hop]
  · intro k (hop : opcodeOf w = BitVec.ofNat 4 k.val) mask
    have hmask : reservedZero (requestOf w) = mask := by
      fin_cases k <;> simp [mask, requestOf, hop, reservedZero, rowMask]
    rw [decode_eq, hmask]
    exact ⟨fun h => if_neg h, fun h => ⟨_, if_pos h⟩⟩

/-- Settles O4: the decoder is evaluated on each word. -/
theorem exampleWordsDecode : Obligations.ExampleWordsDecode :=
  ⟨rfl, rfl, rfl, rfl, rfl, rfl, rfl, rfl, rfl, rfl, rfl, rfl, rfl, rfl, rfl, rfl, rfl, rfl⟩

/-! ## The assembler -/

@[simp] theorem fitsByte_toNat (a : BitVec 8) : fitsByte a.toNat = true := decide_eq_true (Nat.le_of_lt_succ a.isLt)

@[simp] theorem fitsBit_toNat (e : Bool) : fitsBit e.toNat = true := decide_eq_true e.toNat_le

theorem assemble_ne_none_iff {l : AsmLine} : assemble l ≠ none ↔ l.wellFormed = true := by
  rw [Ne, assemble_eq_none_iff, Bool.not_eq_false]

/-- A line whose operands fit assembles to words that decode to its requests (R87, R88). -/
theorem decode_assemble {l : AsmLine} (h : l.wellFormed = true) :
    (assemble l).map (List.map decode) = some (l.expand.map .ok) := by
  have hdec : decode ∘ encode = Except.ok := funext decode_encode
  rw [assemble_eq_some_iff.mpr ⟨h, rfl⟩, Option.map_some, List.map_map, hdec]

/-- Settles O5: the first clause is well-formedness written out for each form. In the others every operand is the number
of a field's value, so the line is well formed (`decode_assemble`) and its expansion reads each operand back. -/
theorem assembledLinesDecodeToTheirRequests : Obligations.AssembledLinesDecodeToTheirRequests := by
  unfold Obligations.AssembledLinesDecodeToTheirRequests
  intro requests
  have hreq {l : AsmLine} (h : l.wellFormed = true) : requests l = some (l.expand.map .ok) := decode_assemble h
  refine ⟨fun l => ?fits, hreq rfl, hreq rfl, hreq rfl, fun a => ?_, fun e => ?_, fun a e => ?_, fun a b => ?_,
    fun a b e => ?_, fun a b cs => ?_⟩
  case fits =>
    rw [assemble_ne_none_iff]
    cases l <;> simp [AsmLine.wellFormed, and_assoc]
  all_goals simp [hreq, AsmLine.wellFormed, AsmLine.expand, Function.comp_def]

end Sys2Proof
end

section
/-! PROOFS. The obligations of 40_pixel_buffer.md: the words of the four requests, by their rows, and what the requests
write and respond. -/

namespace Sys2Proof

/-- A word that the row's mask matches decodes to `i`, if the decoder's arm for the row's opcode checks just that row
for `i` (R83, R84). -/
theorem decode_of_row {w mask mtch : Word} {i : Instr} (hmask : opcodeOf mask = 0xF#4) (h : w &&& mask = mtch)
    (harm : opcodeOf w = opcodeOf mtch → decode w = checked w mask mtch i) : decode w = .ok i :=
  (harm (opcodeOf_masked hmask h)).trans (checked_ok h)

namespace Machine

/-! ## CLEAR and the two reads -/

/-- Every pixel of the cleared framebuffer is off (R110). -/
theorem pixel_cleared (x y : Nat) : pixel Memory.cleared x y = false := by simp [pixel]

/-- Settles O9: every byte of the cleared framebuffer reads as 0x00. -/
theorem clearZeroesTheFramebuffer : Obligations.ClearZeroesTheFramebuffer := by
  refine ⟨?_, fun s => ⟨_, rfl, rfl, read_cleared, pixel_cleared⟩⟩
  rintro w rfl
  rfl

/-- A pixel is on exactly if it is in bounds and its bit of its byte is 1 (R51, R52, R54). -/
theorem pixel_eq_true_iff {m : Memory} {x y : Nat} :
    pixel m x y = true ↔ x < 132 ∧ y < 64 ∧ (m.read (y / 8 * 132 + x)).getLsbD (y % 8) = true := by
  rw [← and_assoc, ← inB_iff]
  by_cases h : inB x y = true
  · simp [pixel_of_inB h, h]
  · simp [pixel, h]

/-- `zext_8` of a bit (R11, R112). -/
theorem setWidth_ofBool (b : Bool) : (BitVec.ofBool b).setWidth 8 = if b then 0x01 else 0x00 := by cases b <;> rfl

/-- GET_PIXEL responds its pixel as a byte and changes nothing else (R112). -/
theorem exec_getPixel (x y : BitVec 8) (s : State) :
    exec (.getPixel x y) s = .next (s.respond true (if pixel s.fb x.toNat y.toNat then 0x01 else 0x00)) := by
  simp only [exec, execGetPixel, setWidth_ofBool]

/-- Settles O11: the words by their row, the response by `exec_getPixel` with the pixel's address and bit written out. -/
theorem getPixelRespondsThePixel : Obligations.GetPixelRespondsThePixel := by
  refine ⟨fun w h => decode_of_row rfl h fun hop => by rw [decode, hop]; rfl, fun s x y => ?_⟩
  rw [exec_getPixel]
  simp only [pixel_eq_true_iff]
  rfl

/-- Settles O12: the words by their row; the response is the meaning's own. -/
theorem readPageRowRespondsTheByte : Obligations.ReadPageRowRespondsTheByte :=
  ⟨fun w h => decode_of_row rfl h fun hop => by rw [decode, hop]; rfl, fun _ _ _ => rfl⟩

/-! ## SET_PIXEL -/

/-- SET_PIXEL is `PixelWrite` and the response (1, 0x00) (R111). -/
theorem exec_setPixel (x y : BitVec 8) (on : Bool) (s : State) :
    exec (.setPixel x y on) s = .next ((s.setFb (pixelWrite s.fb x.toNat y.toNat on)).respond true 0x00) := rfl

/-- `PixelWrite` out of bounds does nothing (R52). -/
theorem pixelWrite_out_of_bounds {x y : Nat} (h : 132 ≤ x ∨ 64 ≤ y) (fb : Memory) (on : Bool) :
    pixelWrite fb x y on = fb :=
  if_neg fun hb => by
    obtain ⟨hx, hy⟩ := inB_iff.mp hb
    omega

/-- What an in-bounds pixel is after `PixelWrite`: `pixel_pixelWrite` without its bounds, since an in-bounds pixel can
only be the written one where the write is in bounds too. -/
theorem pixel_pixelWrite_of_inB {fb : Memory} (h : fb.wf = true) {x y : Nat} (on : Bool) {x' y' : Nat}
    (hb : inB x' y' = true) :
    pixel (pixelWrite fb x y on) x' y' = if x' = x ∧ y' = y then on else pixel fb x' y' := by
  rw [pixel_pixelWrite h]
  by_cases heq : x' = x ∧ y' = y
  · obtain ⟨rfl, rfl⟩ := heq
    simp [hb]
  · simp [heq]

/-- Settles O10: the words by their row, FB by the laws of `PixelWrite`. -/
theorem setPixelWritesExactlyItsPixel : Obligations.SetPixelWritesExactlyItsPixel := by
  refine ⟨fun w h => decode_of_row rfl h fun hop => by rw [decode, hop]; rfl, fun s x y on hwf =>
    ⟨_, exec_setPixel x y on s, rfl, fun x' y' hx hy => ?_, fun a ha => ?_, fun h => ?_⟩⟩
  · exact pixel_pixelWrite_of_inB hwf on (inB_iff.mpr ⟨hx, hy⟩)
  · exact read_pixelWrite_other hwf on ha
  · exact pixelWrite_out_of_bounds h s.fb on

/-- Settles O13: GET_PIXEL responds the pixel, which `PixelWrite` sets at `(x, y)` and keeps elsewhere. -/
theorem pixelRoundTrip : Obligations.PixelRoundTrip := by
  intro s x y v hwf
  have hpix (x' y' : BitVec 8) (hx : x'.toNat < 132) (hy : y'.toNat < 64) :
      pixel (pixelWrite s.fb x.toNat y.toNat v) x'.toNat y'.toNat =
        if x'.toNat = x.toNat ∧ y'.toNat = y.toNat then v else pixel s.fb x'.toNat y'.toNat :=
    pixel_pixelWrite_of_inB hwf v (inB_iff.mpr ⟨hx, hy⟩)
  refine ⟨_, exec_setPixel x y v s, fun hx hy => ⟨⟨_, exec_getPixel .., ?_⟩, fun x' y' hx' hy' hne =>
    ⟨_, _, exec_getPixel .., exec_getPixel .., ?_⟩⟩, fun h a => ?_⟩
  · simp [hpix x y hx hy]
  · have hother : ¬(x'.toNat = x.toNat ∧ y'.toNat = y.toNat) := fun h =>
      hne (Prod.ext (BitVec.eq_of_toNat_eq h.1) (BitVec.eq_of_toNat_eq h.2))
    simp [hpix x' y' hx' hy', hother]
  · exact congrArg (Memory.read · a) (pixelWrite_out_of_bounds h s.fb v)

end Machine
end Sys2Proof
end

section
/-! PROOFS. The obligations of 41_text_renderer.md: SET_CURSOR, one RENDER_CHAR, and a whole `RENDER` line, whose
requests are served in turn from the cursor that its SET_CURSOR sets. -/

namespace Sys2Proof
namespace Machine
open Config

/-! ## SET_CURSOR -/

/-- SET_CURSOR sets the two cursor registers and responds (1, 0x00) (R130). -/
theorem exec_setCursor (x0 y0 : BitVec 8) (s : State) :
    exec (.setCursor x0 y0) s = .next (((s.setCursorX (x0.setWidth 16)).setCursorY y0).respond true 0x00) := rfl

/-- `zext_16` of a byte keeps its value (R11). -/
theorem setWidth_16_toNat (x : BitVec 8) : (x.setWidth 16).toNat = x.toNat :=
  BitVec.toNat_setWidth_of_le (by decide)

/-- Settles O14: the words by their row, the state by `exec_setCursor`. -/
theorem setCursorSetsTheCursor : Obligations.SetCursorSetsTheCursor :=
  ⟨fun w h => decode_of_row rfl h fun hop => by rw [decode, hop]; rfl, fun s x0 y0 =>
    ⟨_, exec_setCursor x0 y0 s, rfl, setWidth_16_toNat x0⟩⟩

/-! ## The glyph of one character -/

theorem printable_iff {c : Nat} : printable c = true ↔ 32 ≤ c ∧ c ≤ 127 := by simp [printable]

theorem sat16_toNat (v : Nat) : (sat16 v).toNat = min v 0xFFFF := by
  rw [sat16, BitVec.toNat_ofNat]
  omega

/-- The glyph of the printable code `c` stands with its top left corner at `(x, y)`: each in-bounds pixel of its cell
has its bit of the glyph ROM (R57, R132). -/
def GlyphStands (cfg : Params) (fb : Memory) (c x y : Nat) : Prop :=
  ∀ i r, i < 5 → r < 8 → x + i < 132 → y + r < 64 →
    ∃ b : Byte, cfg.glyphRom[(c - 32) * 5 + i]? = some b ∧ pixel fb (x + i) (y + r) = b.getLsbD r

/-- `GlyphCol` is the ROM's byte at R57's index. -/
theorem glyphRom_getElem?_eq (cfg : Params) {c : Nat} (h : printable c = true) (i : Fin FONT_W) :
    cfg.glyphRom[(c - 32) * 5 + i.val]? = some (glyphCol cfg c h i) :=
  Vector.getElem?_eq_getElem _

/-- A glyph stands where it was drawn. -/
theorem glyphStands_drawGlyph {fb : Memory} (hwf : fb.wf = true) (cfg : Params) {c : Nat} (h : printable c = true)
    (x y : Nat) : GlyphStands cfg (drawGlyph fb x y (glyphCol cfg c h)) c x y := by
  intro i r hi hr hx hy
  obtain ⟨-, hcell, -⟩ := drawGlyph_spec hwf x y (glyphCol cfg c h)
  refine ⟨_, glyphRom_getElem?_eq cfg h ⟨i, hi⟩, ?_⟩
  rw [hcell ⟨i, hi⟩ (y + r) (inB_iff.mpr ⟨hx, hy⟩) (by omega) (by omega), Nat.add_sub_cancel_left]

/-- A glyph that stands still does so after what leaves its in-bounds pixels alone. -/
theorem GlyphStands.of_pixel_eq {cfg : Params} {m n : Memory} {c x y : Nat} (h : GlyphStands cfg m c x y)
    (heq : ∀ i r, i < 5 → r < 8 → x + i < 132 → y + r < 64 → pixel n (x + i) (y + r) = pixel m (x + i) (y + r)) :
    GlyphStands cfg n c x y := by
  intro i r hi hr hx hy
  rw [heq i r hi hr hx hy]
  exact h i r hi hr hx hy

/-- Drawing a glyph leaves every pixel outside its cell alone (R132). -/
theorem pixel_drawGlyph_outside {fb : Memory} (hwf : fb.wf = true) (glyph : Fin FONT_W → Byte) {x y x' y' : Nat}
    (h : x' < x ∨ x + 5 ≤ x' ∨ y' < y ∨ y + 8 ≤ y') : pixel (drawGlyph fb x y glyph) x' y' = pixel fb x' y' := by
  obtain ⟨-, -, hout⟩ := drawGlyph_spec hwf x y glyph
  exact hout x' y' (by omega)

/-- RENDER_CHAR skips a code outside 32..127 (R131). -/
theorem exec_renderChar_unprintable {code : BitVec 8} (h : ¬printable code.toNat = true) (s : State) :
    exec (.renderChar code) s = .next (s.respond true 0x00) := dif_neg h

/-- RENDER_CHAR draws a printable code at the cursor and moves the cursor past it (R132 to R134). -/
theorem exec_renderChar_printable {code : BitVec 8} (h : printable code.toNat = true) (s : State) :
    exec (.renderChar code) s =
      .next (((s.setFb (drawGlyph s.fb s.cursorX.toNat s.cursorY.toNat (glyphCol s.cfg code.toNat h))).setCursorX
        (sat16 (s.cursorX.toNat + advance code.toNat))).respond true 0x00) := dif_pos h

/-- Settles O15: the words by their row, a skipped code and a printable one by their `exec_renderChar_` equations, FB by
the laws of `drawGlyph`. -/
theorem renderCharDrawsItsGlyphAndAdvances : Obligations.RenderCharDrawsItsGlyphAndAdvances := by
  refine ⟨fun w h => decode_of_row rfl h fun hop => by rw [decode, hop]; rfl, fun s code h => ?skipped,
    fun s code hwf hlo hhi => ?drawn⟩
  case skipped =>
    exact exec_renderChar_unprintable (fun hp => by have := printable_iff.mp hp; omega) s
  case drawn =>
    have hp : printable code.toNat = true := printable_iff.mpr ⟨hlo, hhi⟩
    exact ⟨_, exec_renderChar_printable hp s, rfl, sat16_toNat _, glyphStands_drawGlyph hwf s.cfg hp _ _,
      fun _ _ _ _ hout => pixel_drawGlyph_outside hwf _ hout, fun _ ha => read_drawGlyph_other hwf _ ha⟩

/-! ## The width of a text -/

theorem textWidth_nil : textWidth [] = 0 := rfl

theorem textWidth_cons (c : Nat) (text : List Nat) :
    textWidth (c :: text) = (if printable c = true then advance c else 0) + textWidth text := by
  by_cases hp : printable c = true <;> simp [textWidth, printableCodes, hp]

theorem textWidth_singleton_printable {c : Nat} (h : printable c = true) : textWidth [c] = advance c := by
  simp [textWidth_cons, h, textWidth_nil]

theorem textWidth_singleton_unprintable {c : Nat} (h : ¬printable c = true) : textWidth [c] = 0 := by
  simp [textWidth_cons, h, textWidth_nil]

theorem textWidth_cons_eq_add (c : Nat) (text : List Nat) : textWidth (c :: text) = textWidth [c] + textWidth text := by
  rw [textWidth_cons, textWidth_cons c [], textWidth_nil, Nat.add_zero]

/-- An advance reaches past the five columns of the glyph (R133). -/
theorem five_le_advance (c : Nat) : 5 ≤ advance c := by
  unfold advance
  split <;> decide

/-- The space is one column narrower than the other printable codes (R133). -/
theorem advance_add_one_of_space (c : Nat) : advance c + (if c == 32 then 1 else 0) = 6 := by
  by_cases h : c = 32 <;> simp [advance, h]

/-- R135's closed form of the width: 6 for each printable code, less 1 for each space. -/
theorem textWidth_add_count_space (text : List Nat) :
    textWidth text + text.count 32 = 6 * (text.filter printable).length := by
  induction text with
  | nil => rfl
  | cons c text ih =>
    rw [textWidth_cons, List.count_cons, List.filter_cons]
    by_cases hp : printable c = true
    · have hsix := advance_add_one_of_space c
      rw [if_pos hp, if_pos hp, List.length_cons]
      omega
    · have hspace : ¬(c == 32) = true := fun h => hp (beq_iff_eq.mp h ▸ rfl)
      rw [if_neg hp, if_neg hp, if_neg hspace]
      omega

/-! ## The requests of a text -/

/-- A request of a list is served, then the rest from the state in which it is complete (R64). -/
theorem serveAll_encode_cons {i : Instr} {s t : State} (hf : s.fault = false) (h : exec i s.accept = .next t)
    (ws : List Word) : serveAll (encode i :: ws) s = serveAll ws t.complete := by
  simp [serveAll, hf, serve_decoded (decode_encode i), h]

/-- What rendering a text at the cursor of `s` leaves in `t` (R135). The pixels of the line's rows from the cursor on
are spoken of as far as glyphs stand there. -/
structure TextRendered (text : List Nat) (s t : State) : Prop where
  idle : t.Idle
  cfg : t.cfg = s.cfg
  txlog : t.txlog = s.txlog
  cursorX : t.cursorX.toNat = min (s.cursorX.toNat + textWidth text) 0xFFFF
  cursorY : t.cursorY = s.cursorY
  wf : s.fb.wf = true → t.fb.wf = true
  glyphs : s.fb.wf = true → ∀ before c after, text = before ++ c :: after → printable c = true →
    GlyphStands s.cfg t.fb c (s.cursorX.toNat + textWidth before) s.cursorY.toNat
  outside : s.fb.wf = true → ∀ x y, x < 132 → y < 64 →
    (x < s.cursorX.toNat ∨ y < s.cursorY.toNat ∨ s.cursorY.toNat + 8 ≤ y) → pixel t.fb x y = pixel s.fb x y

/-- A 16-bit register holds no more than `0xFFFF`. -/
theorem toNat_eq_min (x : BitVec 16) : x.toNat = min x.toNat 0xFFFF := by omega

theorem textRendered_nil {s : State} (hs : s.Idle) : TextRendered [] s s where
  idle := hs
  cfg := rfl
  txlog := rfl
  cursorX := toNat_eq_min s.cursorX
  cursorY := rfl
  wf := id
  glyphs _ before c after h := by simp at h
  outside _ _ _ _ _ _ := rfl

/-- A text of one character splits in one way. -/
theorem of_singleton_eq_append_cons {a c : Nat} {before after : List Nat} (h : [a] = before ++ c :: after) :
    before = [] ∧ c = a := by
  cases before with
  | nil => exact ⟨rfl, (List.cons.inj h).1.symm⟩
  | cons b before => simp at h

/-- RENDER_CHAR renders its code as a text of one character: a printable code's glyph, or nothing (R131 to R134). -/
theorem exec_renderChar_textRendered (code : BitVec 8) {s : State} (hs : s.Idle) :
    ∃ t, exec (.renderChar code) s.accept = .next t ∧ TextRendered [code.toNat] s t.complete := by
  obtain ⟨-, hf, hq, -⟩ := hs
  by_cases hp : printable code.toNat = true
  · refine ⟨_, exec_renderChar_printable hp s.accept, ?_⟩
    exact
      { idle := ⟨rfl, hf, rfl, rfl⟩
        cfg := rfl
        txlog := by simp [hq]
        cursorX := by
          rw [textWidth_singleton_printable hp]
          exact sat16_toNat _
        cursorY := rfl
        wf := fun hwf => (drawGlyph_spec hwf _ _ _).1
        glyphs := fun hwf before c after h _ => by
          obtain ⟨rfl, rfl⟩ := of_singleton_eq_append_cons h
          exact glyphStands_drawGlyph hwf s.cfg hp _ _
        outside := fun hwf x y _ _ hxy => pixel_drawGlyph_outside hwf _ (hxy.imp_right .inr) }
  · refine ⟨_, exec_renderChar_unprintable hp s.accept, ?_⟩
    exact
      { idle := ⟨rfl, hf, rfl, rfl⟩
        cfg := rfl
        txlog := by simp [hq]
        cursorX := by
          rw [textWidth_singleton_unprintable hp]
          exact toNat_eq_min s.cursorX
        cursorY := rfl
        wf := id
        glyphs := fun _ before c after h hc => by
          obtain ⟨-, rfl⟩ := of_singleton_eq_append_cons h
          exact absurd hc hp
        outside := fun _ _ _ _ _ _ => rfl }

/-- A first character, then the rest of the text from where the cursor then stands: the rest writes only from its own
cursor on, which lies past the first glyph's columns. -/
theorem TextRendered.cons {c : Nat} {text : List Nat} {s u t : State} (hc : TextRendered [c] s u)
    (ht : TextRendered text u t) : TextRendered (c :: text) s t := by
  have hx : u.cursorX.toNat = min (s.cursorX.toNat + textWidth [c]) 0xFFFF := hc.cursorX
  have hy : u.cursorY = s.cursorY := hc.cursorY
  have hw : ∀ l, textWidth (c :: l) = textWidth [c] + textWidth l := textWidth_cons_eq_add c
  refine
    { idle := ht.idle
      cfg := ht.cfg.trans hc.cfg
      txlog := ht.txlog.trans hc.txlog
      cursorX := by rw [ht.cursorX, hx, hw text]; omega
      cursorY := ht.cursorY.trans hy
      wf := ht.wf ∘ hc.wf
      glyphs := fun hwf before d after h hd => ?glyphs
      outside := fun hwf x y hxb hyb hxy => ?outside }
  case glyphs =>
    cases before with
    | nil =>
      obtain ⟨rfl, rfl⟩ := List.cons.inj h
      have hwide : 5 ≤ textWidth [c] := textWidth_singleton_printable hd ▸ five_le_advance c
      refine (hc.glyphs hwf [] c [] rfl hd).of_pixel_eq fun i r hi _ hxb hyb => ?_
      rw [textWidth_nil] at hxb ⊢
      exact ht.outside (hc.wf hwf) _ _ hxb hyb (.inl (by omega))
    | cons b before =>
      obtain ⟨rfl, rfl⟩ := List.cons.inj h
      intro i r hi hr hxb hyb
      have hat := ht.glyphs (hc.wf hwf) before d after rfl hd i r hi hr
      have hpos : u.cursorX.toNat + textWidth before = s.cursorX.toNat + textWidth (c :: before) := by
        rw [hw] at hxb ⊢
        omega
      rw [hpos, hy, hc.cfg] at hat
      exact hat hxb hyb
  case outside =>
    have hrest : pixel t.fb x y = pixel u.fb x y := ht.outside (hc.wf hwf) x y hxb hyb (by rw [hy]; omega)
    exact hrest.trans (hc.outside hwf x y hxb hyb hxy)

/-- The RENDER_CHAR requests of a text, served in turn, render it (R88, R135). -/
theorem serveAll_text {text : List Nat} (hfit : ∀ c ∈ text, c ≤ 255) {s : State} (hs : s.Idle) :
    ∃ t, serveAll (text.map fun c => encode (.renderChar (.ofNat 8 c))) s = .next t ∧ TextRendered text s t := by
  induction text generalizing s with
  | nil => exact ⟨s, rfl, textRendered_nil hs⟩
  | cons c text ih =>
    obtain ⟨hc, htext⟩ := List.forall_mem_cons.mp hfit
    obtain ⟨u, hu, hfirst⟩ := exec_renderChar_textRendered (.ofNat 8 c) hs
    rw [BitVec.toNat_ofNat, Nat.mod_eq_of_lt (by omega)] at hfirst
    obtain ⟨t, ht, hrest⟩ := ih htext hfirst.idle
    obtain ⟨-, hf, -, -⟩ := hs
    exact ⟨t, (serveAll_encode_cons hf hu _).trans ht, hfirst.cons hrest⟩

/-! ## The RENDER line -/

/-- The state in which SET_CURSOR x0, y0 is complete (R130). -/
def State.atCursor (s : State) (x0 y0 : BitVec 8) : State :=
  (((s.accept.setCursorX (x0.setWidth 16)).setCursorY y0).respond true 0x00).complete

@[simp] theorem atCursor_fb (s : State) (x0 y0 : BitVec 8) : (s.atCursor x0 y0).fb = s.fb := rfl

@[simp] theorem atCursor_cfg (s : State) (x0 y0 : BitVec 8) : (s.atCursor x0 y0).cfg = s.cfg := rfl

@[simp] theorem atCursor_cursorX_toNat (s : State) (x0 y0 : BitVec 8) : (s.atCursor x0 y0).cursorX.toNat = x0.toNat :=
  setWidth_16_toNat x0

@[simp] theorem atCursor_cursorY (s : State) (x0 y0 : BitVec 8) : (s.atCursor x0 y0).cursorY = y0 := rfl

theorem atCursor_idle {s : State} (hs : s.Idle) (x0 y0 : BitVec 8) : (s.atCursor x0 y0).Idle := by
  obtain ⟨-, hf, -, -⟩ := hs
  exact ⟨rfl, hf, rfl, rfl⟩

theorem atCursor_txlog {s : State} (hs : s.Idle) (x0 y0 : BitVec 8) : (s.atCursor x0 y0).txlog = s.txlog := by
  obtain ⟨-, -, hq, -⟩ := hs
  simp [State.atCursor, hq]

/-- A `RENDER` line whose operands fit assembles, and its requests render the text from `(x0, y0)` (R88, R135). -/
theorem serveAll_render {s : State} {text : List Nat} (hs : s.Idle) (x0 y0 : BitVec 8) (hfit : ∀ c ∈ text, c ≤ 255) :
    ∃ ws t, assemble (.render x0.toNat y0.toNat text) = some ws ∧ serveAll ws s = .next t ∧
      TextRendered text (s.atCursor x0 y0) t := by
  have hwell : (AsmLine.render x0.toNat y0.toNat text).wellFormed = true := by simpa [AsmLine.wellFormed] using hfit
  obtain ⟨t, ht, hr⟩ := serveAll_text hfit (atCursor_idle hs x0 y0)
  refine ⟨_, t, assemble_eq_some_iff.mpr ⟨hwell, rfl⟩, ?_, hr⟩
  obtain ⟨-, hf, -, -⟩ := hs
  simp only [AsmLine.expand, List.map_cons, List.map_map, BitVec.ofNat_toNat, BitVec.setWidth_eq]
  exact (serveAll_encode_cons hf (exec_setCursor x0 y0 s.accept) _).trans ht

/-- A number that fits a byte is some byte's. -/
theorem exists_toNat_eq {n : Nat} (h : n ≤ 255) : ∃ b : BitVec 8, b.toNat = n :=
  ⟨.ofNat 8 n, Nat.mod_eq_of_lt (Nat.lt_succ_of_le h)⟩

/-- Settles O16: the line's requests by `serveAll_render`, the width in its closed form. -/
theorem renderTextMovesTheCursor : Obligations.RenderTextMovesTheCursor := by
  intro s x0 y0 text hs hx0 hy0 hfit
  obtain ⟨x0, rfl⟩ := exists_toNat_eq hx0
  obtain ⟨y0, rfl⟩ := exists_toNat_eq hy0
  obtain ⟨ws, t, hws, ht, hr⟩ := serveAll_render hs x0 y0 hfit
  refine ⟨ws, t, hws, ht, ?_, congrArg BitVec.toNat hr.cursorY, hr.txlog.trans (atCursor_txlog hs x0 y0), hr.cfg,
    hr.idle⟩
  have hwidth : textWidth text + text.count 32 = 6 * (text.filter fun c => 32 ≤ c && c ≤ 127).length :=
    textWidth_add_count_space text
  rw [hr.cursorX, atCursor_cursorX_toNat, ← hwidth]
  omega

/-- Settles O17: the line's requests by `serveAll_render`, whose glyphs and frame start at `(x0, y0)`. -/
theorem renderTextDrawsEveryGlyph : Obligations.RenderTextDrawsEveryGlyph := by
  intro s x0 y0 text hs hwf hx0 hy0 hfit
  obtain ⟨x0, rfl⟩ := exists_toNat_eq hx0
  obtain ⟨y0, rfl⟩ := exists_toNat_eq hy0
  obtain ⟨ws, t, hws, ht, hr⟩ := serveAll_render hs x0 y0 hfit
  refine ⟨ws, t, hws, ht, fun before c after htext hlo hhi => ?glyph, ?outside⟩
  case glyph =>
    have hstands : GlyphStands s.cfg t.fb c (x0.toNat + textWidth before) y0.toNat := by
      simpa using hr.glyphs hwf before c after htext (printable_iff.mpr ⟨hlo, hhi⟩)
    exact hstands
  case outside =>
    simpa using hr.outside hwf

end Machine
end Sys2Proof
end

section
/-! PROOFS. The obligations of 42_status_bar.md: the icon write and what it sets in the icon view, the length of a digit
write, and the seven status bar requests, each by its words' row and its emission group. -/

namespace Sys2Proof
namespace Machine
open Config

/-! ## The icon write and its view -/

/-- The two column commands of a column, in the order `COL_ORDER` (R150). -/
theorem columnCmds_eq (cfg : Params) (c : Fin 132) :
    columnCmds cfg c =
      [.cmd (if cfg.colOrder = .loFirst then cfg.colLoCmd[c] else cfg.colHiCmd[c]),
       .cmd (if cfg.colOrder = .loFirst then cfg.colHiCmd[c] else cfg.colLoCmd[c])] := by
  cases h : cfg.colOrder <;> simp [columnCmds, h]

/-- A column 0..131 is always written. -/
theorem iconWrite_val (cfg : Params) (c : Fin 132) (on : Bool) : iconWrite cfg c.val on = iconEvents cfg c on :=
  iconWrite_lt cfg c.isLt on

/-- Settles O18: a column 0..131 is written as its four events, the column commands by `columnCmds_eq`. -/
theorem iconWriteIsItsFourEvents : Obligations.IconWriteIsItsFourEvents := by
  refine fun cfg on => ⟨fun c => ?_, fun col h => iconWrite_ge cfg h on⟩
  rw [iconWrite_val, iconEvents, columnCmds_eq]
  rfl

/-- The first three events of an icon write are its commands (R150). -/
theorem opensWithCommands_iconEvents (cfg : Params) (c : Fin 132) (on : Bool) :
    OpensWithCommands (iconEvents cfg c on) := by
  simp [OpensWithCommands, iconEvents, columnCmds_eq, TxEvent.dataByte]

/-- An icon write stands at its own head, for every column that has its column commands. -/
theorem iconWriteAtHead_iconEvents (cfg : Params) (c c' : Fin 132) (on : Bool) :
    iconWriteAtHead cfg c' (iconEvents cfg c on) =
      if columnCmds cfg c = columnCmds cfg c' then some (iconByte cfg on) else none := by
  rw [iconEvents, columnCmds_eq cfg c]
  simp [iconWriteAtHead]

/-- The icon data of an icon write is its one data byte, for every column that has its column commands (R151). -/
theorem iconDataOf_iconEvents (cfg : Params) (c c' : Fin 132) (on : Bool) :
    iconDataOf cfg c' (iconEvents cfg c on) =
      if columnCmds cfg c = columnCmds cfg c' then [iconByte cfg on] else [] := by
  have hrest : iconDataOf cfg c' (columnCmds cfg c ++ [.data (iconByte cfg on)]) = [] := by
    refine iconDataOf_eq_nil (fun e he => ?_) cfg c'
    rw [List.drop_left' (columnCmds_length cfg c), List.mem_singleton] at he
    simp [he, TxEvent.dataByte]
  have hhead := iconWriteAtHead_iconEvents cfg c c' on
  rw [iconEvents] at hhead ⊢
  rw [iconDataOf, hhead, hrest, List.append_nil]
  split <;> rfl

/-- A column's icon data after an icon write: the byte written at the end, if the column has its column commands. -/
theorem iconDataOf_append_iconWrite (cfg : Params) (log : List TxEvent) (c c' : Fin 132) (on : Bool) :
    iconDataOf cfg c' (log ++ iconWrite cfg c.val on) =
      iconDataOf cfg c' log ++ if columnCmds cfg c = columnCmds cfg c' then [iconByte cfg on] else [] := by
  rw [iconWrite_val, iconDataOf_append (opensWithCommands_iconEvents cfg c on), iconDataOf_iconEvents]

/-- The two icon bytes differ (R9), so a view tells which of them was written last. -/
theorem iconView_of_getLast? {cfg : Params} (hcfg : cfg.wf) {log : List TxEvent} {c : Fin 132} {on : Bool}
    (h : (iconDataOf cfg c log).getLast? = some (iconByte cfg on)) :
    iconView cfg log c = if on = true then .on else .off := by
  obtain ⟨-, -, hne, -⟩ := hcfg
  rw [iconView, h]
  cases on with
  | true => simp [iconByte]
  | false => simp [iconByte, hne.symm]

/-- Settles O30: the byte written is the last of the icon data of its column, and no icon data of a column with other
column commands. -/
theorem iconWriteSetsItsView : Obligations.IconWriteSetsItsView := by
  refine fun cfg log c c' on hcfg => ⟨iconView_of_getLast? hcfg ?_, fun hne => ?_⟩
  · rw [iconDataOf_append_iconWrite, if_pos rfl, List.getLast?_concat]
  · have hdata : iconDataOf cfg c' (log ++ iconWrite cfg c.val on) = iconDataOf cfg c' log := by
      rw [iconDataOf_append_iconWrite, if_neg (Ne.symm hne), List.append_nil]
    rw [iconView, iconView, hdata]

/-! ## Groups of writes -/

/-- A run of pieces of one length `n` holds its `k`-th piece at `n * k`. -/
theorem take_drop_flatMap {α β : Type} {f : α → List β} {n : Nat} {l : List α} (hlen : ∀ a ∈ l, (f a).length = n)
    {k : Nat} (hk : k < l.length) : ((l.flatMap f).drop (n * k)).take n = f l[k] := by
  induction l generalizing k with
  | nil => simp at hk
  | cons a l ih =>
    obtain ⟨ha, hl⟩ := List.forall_mem_cons.mp hlen
    rw [List.flatMap_cons]
    cases k with
    | zero => exact List.take_left' ha
    | succ k =>
      rw [Nat.mul_succ, Nat.add_comm, ← List.drop_drop, List.drop_left' ha]
      exact ih hl (Nat.lt_of_succ_lt_succ hk)

/-- A run of the icon writes of those segments that `p` selects: four events for each. -/
theorem length_flatMap_segments (cfg : Params) (pos : Position) (on : Bool) (p : Segment → Bool) (l : List Segment) :
    (l.flatMap fun s => if p s then iconWrite cfg (segColumn cfg s pos) on else []).length =
      4 * (l.filter p).length := by
  induction l with
  | nil => rfl
  | cons s l ih =>
    rw [List.flatMap_cons, List.length_append, ih]
    by_cases hs : p s = true
    · rw [if_pos hs, iconWrite_length cfg (segColumn_lt cfg s pos), List.filter_cons_of_pos hs, List.length_cons]
      omega
    · rw [if_neg hs, List.filter_cons_of_neg hs, List.length_nil, Nat.zero_add]

/-- `popcount` counts the segments of the mask: A to G are the numbers 0 to 6 (R180). -/
theorem length_filter_segments (mask : BitVec 7) :
    (allSegments.filter fun s => mask.getLsbD (segNum s).val).length = popcount mask := by
  have hnum : List.range 7 = allSegments.map fun s => (segNum s).val := rfl
  rw [popcount, hnum, List.filter_map, List.length_map]
  rfl

/-- A digit write has four events for each segment of the digit's two sets (R158, R183). -/
theorem digitWrite_length (cfg : Params) (d : Fin 10) (p : Position) :
    (digitWrite cfg d p).length = 4 * (popcount cfg.segOn[d] + popcount cfg.segOff[d]) := by
  rw [digitWrite, List.length_append, length_flatMap_segments, length_flatMap_segments, Nat.mul_add,
    ← length_filter_segments, ← length_filter_segments]
  rfl

/-! ## The requests of one write -/

/-- Settles O20: the words by their row; the length by whether the column is one of 0 to 131. -/
theorem iconWriteRequestEmitsOneWrite : Obligations.IconWriteRequestEmitsOneWrite := by
  refine ⟨fun w h => decode_of_row rfl h fun hop => by rw [decode, hop]; rfl, fun s col on => ⟨_, rfl, rfl, ?_⟩⟩
  by_cases hcol : col.toNat ≤ 131
  · rw [if_pos hcol, iconWrite_length s.cfg (Nat.lt_succ_of_le hcol)]
  · rw [if_neg hcol, iconWrite_ge s.cfg (Nat.lt_of_not_le hcol), List.length_nil]

/-- Settles O22: the words by their rows; both addresses are columns of the icon page (R59). -/
theorem bellAndMessageWriteOneIcon : Obligations.BellAndMessageWriteOneIcon :=
  ⟨fun w h => decode_of_row rfl h fun hop => by rw [decode, hop]; rfl,
    fun w h => decode_of_row rfl h fun hop => by rw [decode, hop]; rfl, fun s state =>
    ⟨rfl, rfl, iconWrite_length s.cfg s.cfg.bellAddr.isLt state, iconWrite_length s.cfg s.cfg.messageAddr.isLt state⟩⟩

/-! ## The requests of several writes -/

/-- Each bar of SIGNAL is one icon write of four events (R153). -/
theorem signalBar_length (cfg : Params) (L : Nat) :
    ∀ k ∈ List.range SIGNAL_BARS, (iconWrite cfg (cfg.signalBase.val + k) (decide (k < L))).length = 4 := fun _ hk =>
  iconWrite_length cfg (signalColumn_lt cfg (List.mem_range.mp hk)) _

/-- Settles O21: the words by their row; the group is a run of five icon writes, each of a column of the icon page. -/
theorem signalDrawsTheBars : Obligations.SignalDrawsTheBars := by
  refine ⟨fun w h => decode_of_row rfl h fun hop => by rw [decode, hop]; rfl, fun s level => ⟨_, rfl, ?_, fun k hk =>
    ⟨signalColumn_lt s.cfg hk, ?_⟩⟩⟩
  · rw [signalGroup, List.length_flatMap, List.map_congr_left (signalBar_length s.cfg _)]
    rfl
  · rw [signalGroup, take_drop_flatMap (signalBar_length s.cfg _) (by simpa using hk), List.getElem_range]

/-- Bit 0 of a network state clamped to 3 is set for state 1 and for 3 and above (R156). -/
theorem testBit_zero_min_three (n : Nat) : (min n 3).testBit 0 = decide (n = 1 ∨ 3 ≤ n) := by
  rcases Nat.lt_or_ge n 3 with h | h
  · interval_cases n <;> rfl
  · simp [h]

/-- Bit 1 of a network state clamped to 3 is set for 2 and above (R156). -/
theorem testBit_one_min_three (n : Nat) : (min n 3).testBit 1 = decide (2 ≤ n) := by
  rcases Nat.lt_or_ge n 3 with h | h
  · interval_cases n <;> rfl
  · have h2 : 2 ≤ n := by omega
    rw [Nat.min_eq_right h, decide_eq_true h2]
    rfl

/-- Settles O23: the words by their row; the group is the two writes, each on by its bit of the clamped state. -/
theorem networkWritesReceiveThenSend : Obligations.NetworkWritesReceiveThenSend := by
  refine ⟨fun w h => decode_of_row rfl h fun hop => by rw [decode, hop]; rfl, fun s state => ⟨_, rfl, ?_, ?_⟩⟩
  · rw [networkGroup, testBit_zero_min_three, testBit_one_min_three]
  · rw [networkGroup, List.length_append, iconWrite_length s.cfg s.cfg.netRxAddr.isLt,
      iconWrite_length s.cfg s.cfg.netTxAddr.isLt]

/-- The clamp of a battery level to 3 decides no segment, whose thresholds are 3 at most (R157). -/
theorem decide_le_min_three {k : Nat} (hk : k ≤ 3) (n : Nat) : decide (k ≤ min n 3) = decide (k ≤ n) :=
  decide_eq_decide.mpr (by omega)

/-- Settles O24: the words by their row; the group is the four writes, their thresholds untouched by the clamp. -/
theorem batteryWritesItsSegmentsInOrder : Obligations.BatteryWritesItsSegmentsInOrder := by
  refine ⟨fun w h => decode_of_row rfl h fun hop => by rw [decode, hop]; rfl, fun s level => ⟨_, rfl, ?_, ?_⟩⟩
  · rw [batteryGroup, decide_le_min_three (by decide), decide_le_min_three (by decide),
      decide_le_min_three (by decide), Nat.add_zero]
  · have hlen : ∀ k, k < 4 → ∀ on, (iconWrite s.cfg (s.cfg.batteryBase.val + k) on).length = 4 := fun k hk =>
      iconWrite_length s.cfg (batteryColumn_lt s.cfg hk)
    simp (disch := decide) only [batteryGroup, List.length_append, hlen]

/-! ## CLOCK -/

/-- CLOCK of two values up to 99 emits its group (R158). -/
theorem exec_clock_in_range {a b : BitVec 8} (h : a.toNat ≤ 99 ∧ b.toNat ≤ 99) (sep : Bool) (s : State) :
    exec (.clock a b sep) s = .next ((s.emit (clockGroup s.cfg a b h sep)).respond true 0x00) := dif_pos h

/-- CLOCK of a value above 99 takes the fault entry CLOCK_RANGE (R224). -/
theorem exec_clock_out_of_range {a b : BitVec 8} (h : ¬(a.toNat ≤ 99 ∧ b.toNat ≤ 99)) (sep : Bool) (s : State) :
    exec (.clock a b sep) s = .next (s.raise .clockRange) := dif_neg h

/-- The tens digit of a value written by its decimal digits. -/
theorem tensDigit_eq {v : BitVec 8} {t o : Fin 10} (h : v.toNat = 10 * t.val + o.val) (hv : v.toNat ≤ 99) :
    tensDigit v hv = t := Fin.ext (by simp only [tensDigit]; omega)

/-- The ones digit of a value written by its decimal digits. -/
theorem onesDigit_eq {v : BitVec 8} {t o : Fin 10} (h : v.toNat = 10 * t.val + o.val) : onesDigit v = o :=
  Fin.ext (by simp only [onesDigit]; omega)

/-- CLOCK's group by the decimal digits of its two values (R158). -/
theorem clockGroup_eq (cfg : Params) {a b : BitVec 8} {d1 d2 d3 d4 : Fin 10} (ha : a.toNat = 10 * d1.val + d2.val)
    (hb : b.toNat = 10 * d3.val + d4.val) (h : a.toNat ≤ 99 ∧ b.toNat ≤ 99) (sep : Bool) :
    clockGroup cfg a b h sep =
      digitWrite cfg d1 .p1 ++ digitWrite cfg d2 .p2 ++ digitWrite cfg d3 .p3 ++ digitWrite cfg d4 .p4 ++
        iconWrite cfg cfg.sepAddr.val sep := by
  rw [clockGroup, tensDigit_eq ha, onesDigit_eq ha, tensDigit_eq hb, onesDigit_eq hb]

/-- Settles O26: the words by their row; two values in range by their digits, a value above 99 by the fault entry. -/
theorem clockWritesFourDigitsOrFaults : Obligations.ClockWritesFourDigitsOrFaults := by
  refine ⟨fun w h => decode_of_row rfl h fun hop => by rw [decode, hop]; rfl, fun s a b sep =>
    ⟨fun d1 d2 d3 d4 ha hb => ?digits, fun h => exec_clock_out_of_range (by omega) sep s⟩⟩
  have hrange : a.toNat ≤ 99 ∧ b.toNat ≤ 99 := by omega
  refine ⟨_, exec_clock_in_range hrange sep s, clockGroup_eq s.cfg ha hb hrange sep, ?_⟩
  rw [clockGroup_eq s.cfg ha hb hrange sep]
  simp only [List.length_append, digitWrite_length, iconWrite_length s.cfg s.cfg.sepAddr.isLt, List.map_cons,
    List.map_nil, List.sum_cons, List.sum_nil]
  omega

end Machine
end Sys2Proof
end

section
/-! PROOFS. The obligations of 43_seven_segment.md: the digit write as a run of icon writes of the listed segments, what
it leaves of the icon view, and RENDER_DIGIT, by its words' row and its clamped position. -/

namespace Sys2Proof
namespace Machine
open Config

/-! ## The digit write -/

/-- One icon write for each segment of a list, in the list's order, at a position (R182). -/
def segmentWrites (cfg : Params) (p : Position) (on : Bool) (segs : List Segment) : List TxEvent :=
  segs.flatMap fun seg => iconWrite cfg (segColumn cfg seg p) on

/-- A run that skips what `p` does not select is the run over what it selects. -/
theorem flatMap_if_nil {α β : Type} (p : α → Bool) (f : α → List β) (l : List α) :
    (l.flatMap fun a => if p a then f a else []) = (l.filter p).flatMap f := by
  induction l with
  | nil => rfl
  | cons a l ih => by_cases ha : p a = true <;> simp [ha, ih]

/-- A digit write is the writes of the segments of its two sets, and of no other (R181, R182). -/
theorem digitWrite_eq (cfg : Params) (d : Fin 10) (p : Position) :
    digitWrite cfg d p = segmentWrites cfg p true (allSegments.filter (segIsOn cfg d)) ++
      segmentWrites cfg p false (allSegments.filter (segIsOff cfg d)) :=
  congrArg₂ (· ++ ·) (flatMap_if_nil ..) (flatMap_if_nil ..)

/-- The segments A to G are the numbers 0 to 6 (R180), so the numbers a mask selects are those of its segments. -/
theorem filter_segmentNumbers (mask : BitVec 7) :
    ([0, 1, 2, 3, 4, 5, 6] : List (Fin 7)).filter (fun s => mask.getLsbD s.val) =
      (allSegments.filter fun seg => mask.getLsbD (segNum seg).val).map segNum :=
  List.filter_map (f := segNum) (l := allSegments)

/-- The offset of each position (R61). -/
theorem posOff_eq {p : Position} {off : Nat}
    (h : (p = .p1 ∧ off = 0) ∨ (p = .p2 ∧ off = 7) ∨ (p = .p3 ∧ off = 15) ∨ (p = .p4 ∧ off = 22)) :
    posOff p = off := by
  rcases h with ⟨rfl, rfl⟩ | ⟨rfl, rfl⟩ | ⟨rfl, rfl⟩ | ⟨rfl, rfl⟩ <;> rfl

/-- Settles O19: the writes of the selected segments, by their numbers, and four events for each. -/
theorem digitWriteIsOnWritesThenOffWrites : Obligations.DigitWriteIsOnWritesThenOffWrites := by
  intro cfg d p off hoff
  obtain rfl := posOff_eq hoff
  refine ⟨?writes, ?length, fun s => ?range⟩
  case writes =>
    rw [digitWrite_eq, filter_segmentNumbers, filter_segmentNumbers, List.flatMap_map, List.flatMap_map]
    rfl
  case length =>
    rw [digitWrite_length, filter_segmentNumbers, filter_segmentNumbers, List.length_map, List.length_map,
      length_filter_segments, length_filter_segments]
  case range =>
    have hp := posOff_le p
    have hs := cfg.segAddr[s].isLt
    omega

/-! ## The icon view of a digit write -/

/-- Writes of segments whose columns have other column commands leave a column's view as it was (R151). -/
theorem iconView_append_segmentWrites {cfg : Params} (hcfg : cfg.wf) {c : Fin 132} {p : Position} (on : Bool)
    {segs : List Segment}
    (h : ∀ seg ∈ segs, columnCmds cfg c ≠ columnCmds cfg ⟨segColumn cfg seg p, segColumn_lt cfg seg p⟩)
    (log : List TxEvent) : iconView cfg (log ++ segmentWrites cfg p on segs) c = iconView cfg log c := by
  induction segs generalizing log with
  | nil => exact congrArg (iconView cfg · c) (List.append_nil log)
  | cons seg segs ih =>
    obtain ⟨hseg, hsegs⟩ := List.forall_mem_cons.mp h
    obtain ⟨-, hkeep⟩ := iconWriteSetsItsView cfg log ⟨_, segColumn_lt cfg seg p⟩ c on hcfg
    rw [segmentWrites, List.flatMap_cons, ← List.append_assoc]
    exact (ih hsegs _).trans (hkeep hseg)

/-- Settles O31: a digit write is writes of its listed segments only, and none of them is of the column. -/
theorem unlistedSegmentKeepsItsView : Obligations.UnlistedSegmentKeepsItsView := by
  intro cfg log d p c hcfg hother
  rw [digitWrite_eq, ← List.append_assoc,
    iconView_append_segmentWrites hcfg false fun seg hseg =>
      hother seg _ (.inr (List.mem_filter.mp hseg).2) rfl,
    iconView_append_segmentWrites hcfg true fun seg hseg =>
      hother seg _ (.inl (List.mem_filter.mp hseg).2) rfl]

/-! ## RENDER_DIGIT -/

/-- RENDER_DIGIT of a digit up to 9 writes it at the clamped position (R183). -/
theorem exec_renderDigit_in_range {digit : BitVec 8} (h : digit.toNat < 10) (position : BitVec 8) (s : State) :
    exec (.renderDigit digit position) s =
      .next ((s.emit (digitWrite s.cfg ⟨digit.toNat, h⟩ (clampPosition position.toNat))).respond true 0x00) := dif_pos h

/-- RENDER_DIGIT of a digit above 9 takes the fault entry DIGIT_RANGE (R223). -/
theorem exec_renderDigit_out_of_range {digit : BitVec 8} (h : ¬digit.toNat < 10) (position : BitVec 8) (s : State) :
    exec (.renderDigit digit position) s = .next (s.raise .digitRange) := dif_neg h

/-- The position that each operand value is clamped to (R183). -/
theorem clampPosition_eq {n : Nat} {p : Position}
    (h : (p = .p1 ∧ n ≤ 1) ∨ (p = .p2 ∧ n = 2) ∨ (p = .p3 ∧ n = 3) ∨ (p = .p4 ∧ 4 ≤ n)) : clampPosition n = p := by
  rcases h with ⟨rfl, hn⟩ | ⟨rfl, rfl⟩ | ⟨rfl, rfl⟩ | ⟨rfl, hn⟩
  · have hclamp : clamp n POS_MIN POS_MAX = 1 := by simp only [clamp, POS_MIN, POS_MAX]; omega
    simp only [clampPosition, hclamp]
  · rfl
  · rfl
  · have hclamp : clamp n POS_MIN POS_MAX = 4 := by simp only [clamp, POS_MIN, POS_MAX]; omega
    simp only [clampPosition, hclamp]

/-- Settles O25: the words by their row; a digit up to 9 at the clamped position, a digit above 9 by the fault entry. -/
theorem renderDigitWritesOrFaults : Obligations.RenderDigitWritesOrFaults := by
  refine ⟨fun w h => decode_of_row rfl h fun hop => by rw [decode, hop]; rfl, fun s digit position =>
    ⟨fun d p hd hp => ⟨?digit, digitWrite_length s.cfg d p⟩, fun h => ?fault⟩⟩
  case digit =>
    obtain ⟨d, hlt⟩ := d
    obtain rfl : digit.toNat = d := hd
    rw [exec_renderDigit_in_range hlt, clampPosition_eq hp]
    rfl
  case fault => exact exec_renderDigit_out_of_range (Nat.not_lt_of_ge h) position s

end Machine
end Sys2Proof
end

section
/-! PROOFS. The obligations of 44_update.md: UPDATE's group as a run of eight pages of 135 events, the event at each
position of a page, and the data bytes of the group, which are the framebuffer. -/

namespace Sys2Proof
namespace Machine
open Config

/-! ## The events of a page -/

/-- A page with its two column commands written out, in the order `COL_ORDER` (R200). -/
theorem pageEvents_eq (cfg : Params) (fb : Memory) (p : Fin PAGES) :
    pageEvents cfg fb p =
      .cmd cfg.pageCmd[p.val] ::
      .cmd (if cfg.colOrder = .loFirst then cfg.colLoCmd[0] else cfg.colHiCmd[0]) ::
      .cmd (if cfg.colOrder = .loFirst then cfg.colHiCmd[0] else cfg.colLoCmd[0]) ::
      (List.range WIDTH).map fun c => .data (fb.read (fbByte p.val c)) := by
  rw [pageEvents, columnCmds_eq]
  rfl

/-- The first three events of a page are its page select and its column reset pair (R201). -/
theorem pageEvents_getElem?_commands (cfg : Params) (fb : Memory) (p : Fin PAGES) :
    (pageEvents cfg fb p)[0]? = some (TxEvent.cmd cfg.pageCmd[p.val]) ∧
    (pageEvents cfg fb p)[1]? =
      some (TxEvent.cmd (if cfg.colOrder = .loFirst then cfg.colLoCmd[0] else cfg.colHiCmd[0])) ∧
    (pageEvents cfg fb p)[2]? =
      some (TxEvent.cmd (if cfg.colOrder = .loFirst then cfg.colHiCmd[0] else cfg.colLoCmd[0])) := by
  rw [pageEvents_eq]
  exact ⟨rfl, rfl, rfl⟩

/-- The event after the three commands of a page, for column `c`, is the data byte of that column (R201). -/
theorem pageEvents_getElem?_data (cfg : Params) (fb : Memory) (p : Fin PAGES) {c : Nat} (hc : c < 132) :
    (pageEvents cfg fb p)[3 + c]? = some (.data (fb.read (p.val * 132 + c))) := by
  rw [pageEvents_eq, Nat.add_comm]
  simp [hc, fbByte]

/-- The data bytes of a page are the 132 bytes of the page, by column (R202). -/
theorem pageEvents_dataBytes (cfg : Params) (fb : Memory) (p : Fin PAGES) :
    (pageEvents cfg fb p).filterMap TxEvent.dataByte = (List.range WIDTH).map fun c => fb.read (fbByte p.val c) := by
  rw [pageEvents_eq]
  simp only [List.filterMap_cons, TxEvent.dataByte, List.filterMap_map]
  exact congrFun List.filterMap_eq_map _

/-! ## The group of eight pages -/

/-- The group is the pages 0 to 7 in increasing order (R200). -/
theorem updateEvents_eq (cfg : Params) (fb : Memory) :
    updateEvents cfg fb = (List.finRange 8).flatMap (pageEvents cfg fb) := rfl

theorem updateEvents_length (cfg : Params) (fb : Memory) : (updateEvents cfg fb).length = 1080 := by
  rw [updateEvents_eq, List.length_flatMap, List.map_congr_left fun p _ => pageEvents_length cfg fb p]
  rfl

/-- The group holds page `p` from position `135 * p` on (R201). -/
theorem updateEvents_getElem? (cfg : Params) (fb : Memory) (p : Fin PAGES) {j : Nat} (hj : j < 135) :
    (updateEvents cfg fb)[135 * p.val + j]? = (pageEvents cfg fb p)[j]? := by
  have hpage : ((updateEvents cfg fb).drop (135 * p.val)).take 135 = pageEvents cfg fb p := by
    rw [updateEvents_eq, take_drop_flatMap (fun p _ => pageEvents_length cfg fb p) (by simp), List.getElem_finRange]
    rfl
  rw [← hpage, List.getElem?_take_of_lt hj, List.getElem?_drop]

/-- UPDATE emits its group and responds (R200). -/
theorem exec_update (s : State) : exec .update s = .next ((s.emit (updateEvents s.cfg s.fb)).respond true 0x00) := rfl

/-- Settles O27: the word is the encoding of UPDATE; the events of the group by the events of its pages. -/
theorem updateEmitsEveryPageInOrder : Obligations.UpdateEmitsEveryPageInOrder := by
  refine ⟨decode_encode .update, fun s => ⟨_, exec_update s, updateEvents_length s.cfg s.fb, fun p => ?_⟩⟩
  obtain ⟨hselect, hfirst, hsecond⟩ := pageEvents_getElem?_commands s.cfg s.fb p
  have hpage {j : Nat} (hj : j < 135) := updateEvents_getElem? s.cfg s.fb p hj
  refine ⟨(hpage (by decide)).trans hselect, (hpage (by decide)).trans hfirst, (hpage (by decide)).trans hsecond,
    fun c hc => ?_⟩
  rw [Nat.add_assoc, hpage (by omega), pageEvents_getElem?_data s.cfg s.fb p hc]

/-! ## The data bytes of the group -/

/-- `n` blocks of `m` numbers, one after another, count from 0 to `n * m - 1`. -/
theorem flatMap_range_blocks (n m : Nat) :
    ((List.range n).flatMap fun p => (List.range m).map (p * m + ·)) = List.range (n * m) := by
  induction n with
  | zero => simp
  | succ n ih => rw [List.range_succ, List.flatMap_append, ih, Nat.succ_mul, List.range_add, List.flatMap_singleton]

/-- The page addresses in order, each page's by column, are the addresses of the whole framebuffer (R50). -/
theorem flatMap_pages_fbByte :
    ((List.finRange 8).flatMap fun p => (List.range WIDTH).map (fbByte p.val)) = List.range 1056 := by
  have hblocks : ((List.range 8).flatMap fun p => (List.range WIDTH).map (fbByte p)) = List.range 1056 :=
    flatMap_range_blocks 8 132
  rwa [← List.map_coe_finRange_eq_range (n := 8), List.flatMap_map] at hblocks

/-- The data bytes of UPDATE's group are bytes 0 to 1055 in order (R201). -/
theorem updateEvents_dataBytes (cfg : Params) (fb : Memory) :
    (updateEvents cfg fb).filterMap TxEvent.dataByte = (List.range 1056).map fun a => fb.read a := by
  rw [updateEvents_eq, List.filterMap_flatMap, ← flatMap_pages_fbByte, List.map_flatMap]
  simp only [pageEvents_dataBytes, List.map_map, Function.comp_def]

/-- Settles O28: from an empty TXQ the events are UPDATE's group. -/
theorem updateSendsTheWholeFramebuffer : Obligations.UpdateSendsTheWholeFramebuffer := by
  intro s t ht hq
  rw [exec_update] at ht
  cases ht
  rw [respond_txq, emit_txq, hq, List.nil_append]
  exact updateEvents_dataBytes s.cfg s.fb

end Machine
end Sys2Proof
end

section
/-! PROOFS. The obligations of 60_exceptions.md: the output ports and that one channel is active at a time, which requests
take the fault entry, and the edges at which a word is rejected, an event is taken, or a halted block is left alone. -/

namespace Sys2Proof
namespace Machine

/-! ## The output ports -/

theorem txValid_iff {s : State} {rst : Bool} : s.txValid rst = true ↔ s.txq ≠ [] ∧ rst = false := by
  simp [State.txValid]

theorem rspValid_iff {s : State} {rst : Bool} :
    s.rspValid rst = true ↔ (∃ r, s.rsp = some r) ∧ s.txq = [] ∧ rst = false := by
  simp [State.rspValid, Option.isSome_iff_exists, and_assoc]

theorem reqReady_iff {s : State} {rst : Bool} :
    s.reqReady rst = true ↔ s.busy = false ∧ s.fault = false ∧ rst = false := by
  simp [State.reqReady, and_assoc]

/-- The transport port shows the event at the head of TXQ (R232). -/
theorem txOut_of_cons {s : State} {e : TxEvent} {q : List TxEvent} (h : s.txq = e :: q) :
    s.txOut false = some (e.dc, e.byte) := by
  have hvalid : s.txValid false = true := txValid_iff.mpr ⟨h ▸ List.cons_ne_nil e q, rfl⟩
  rw [State.txOut, if_pos hvalid, h]
  rfl

/-- The response port shows RSP once TXQ is empty (R232). -/
theorem rspOut_of_rsp {s : State} {r : Response} (hr : s.rsp = some r) (hq : s.txq = []) :
    s.rspOut false = some r := by
  have hvalid : s.rspValid false = true := rspValid_iff.mpr ⟨⟨r, hr⟩, hq, rfl⟩
  rw [State.rspOut, if_pos hvalid, hr]

/-- Settles O46: the bits by their `_iff` lemmas, the values by what the valid ports show. -/
theorem portsCarryTheHeadEventAndTheResponse : Obligations.PortsCarryTheHeadEventAndTheResponse :=
  ⟨fun _ _ => ⟨txValid_iff, rspValid_iff, reqReady_iff⟩,
    fun _ _ _ => ⟨txOut_of_cons, txOut_of_cons⟩,
    fun _ _ _ => rspOut_of_rsp,
    fun _ _ => ⟨fun h => if_neg (Bool.eq_false_iff.mp h), fun h => if_neg (Bool.eq_false_iff.mp h)⟩⟩

/-- Settles O45: an event needs a non-empty TXQ and a response an empty one; a request needs BUSY = 0, and the invariant
leaves nothing pending then. -/
theorem channelsExcludeEachOther : Obligations.ChannelsExcludeEachOther := by
  refine ⟨fun s rst hinv => ?_, fun s => ⟨Bool.and_false _, Bool.and_false _, Bool.and_false _⟩⟩
  obtain ⟨-, hpending, -⟩ := hinv
  simp only [txValid_iff, rspValid_iff, reqReady_iff]
  refine ⟨?txRsp, ?reqRsp, ?reqTx⟩
  case txRsp =>
    rintro ⟨⟨hne, -⟩, -, hnil, -⟩
    exact hne hnil
  case reqRsp =>
    rintro ⟨⟨hb, -⟩, ⟨r, hr⟩, -⟩
    obtain ⟨-, hnone⟩ := hpending hb
    cases hnone.symm.trans hr
  case reqTx =>
    rintro ⟨⟨hb, -⟩, hne, -⟩
    obtain ⟨hnil, -⟩ := hpending hb
    exact hne hnil

/-! ## The faulting requests -/

/-- The reserved opcode takes the fault entry ILLEGAL_OPCODE (R221). -/
theorem exec_reserved (bits : BitVec 28) (s : State) : exec (.reserved bits) s = .next (s.raise .illegalOpcode) := rfl

/-- Settles O32: the mask keeps the opcode alone, which decides the decoding (O3), and the meaning is the fault entry. -/
theorem reservedOpcodeRaisesIllegalOpcode : Obligations.ReservedOpcodeRaisesIllegalOpcode := by
  refine ⟨fun w h => ?_, fun s bits => exec_reserved bits s⟩
  have hop : opcodeOf w = 0xF#4 := opcodeOf_masked rfl h
  obtain ⟨hreserved, -⟩ := decodeRejectsExactlyReservedBits w
  exact hreserved hop

/-- The requests that the spec lists as faulting (R221, R223, R224). -/
def IsFaulting (i : Instr) : Prop :=
  (∃ b, i = .reserved b) ∨ (∃ d p, i = .renderDigit d p ∧ 9 < d.toNat) ∨
    (∃ a b e, i = .clock a b e ∧ (99 < a.toNat ∨ 99 < b.toNat))

/-- A listed request takes the fault entry and does nothing else (R226, R227). -/
theorem exec_of_isFaulting {i : Instr} (h : IsFaulting i) (s : State) :
    ∃ c : Cause, c ≠ .none ∧ exec i s = .next (s.raise c) := by
  rcases h with ⟨bits, rfl⟩ | ⟨d, p, rfl, hd⟩ | ⟨a, b, sep, rfl, hab⟩
  · exact ⟨.illegalOpcode, nofun, exec_reserved bits s⟩
  · exact ⟨.digitRange, nofun, exec_renderDigit_out_of_range (Nat.not_lt_of_ge hd) p s⟩
  · exact ⟨.clockRange, nofun, exec_clock_out_of_range (by omega) sep s⟩

/-- `t` ends a request begun in `s` without a fault: FAULT and CAUSE are kept and the response has `ok = 1` (R64). -/
def EndsOk (s t : State) : Prop :=
  t.fault = s.fault ∧ t.cause = s.cause ∧ ∃ d, t.rsp = some ⟨true, d⟩

theorem exec_renderChar_endsOk (code : BitVec 8) (s : State) :
    ∃ t, exec (.renderChar code) s = .next t ∧ EndsOk s t := by
  by_cases hp : printable code.toNat = true
  · exact ⟨_, exec_renderChar_printable hp s, rfl, rfl, _, rfl⟩
  · exact ⟨_, exec_renderChar_unprintable hp s, rfl, rfl, _, rfl⟩

/-- Every other request ends without a fault (R220). -/
theorem exec_of_not_isFaulting {i : Instr} (h : ¬IsFaulting i) (s : State) : ∃ t, exec i s = .next t ∧ EndsOk s t := by
  cases i with
  | renderChar code => exact exec_renderChar_endsOk code s
  | renderDigit d p =>
    have hd : d.toNat < 10 := Nat.lt_of_not_le fun hd => h (.inr (.inl ⟨d, p, rfl, hd⟩))
    exact ⟨_, exec_renderDigit_in_range hd p s, rfl, rfl, _, rfl⟩
  | clock a b sep =>
    have hab : ¬(99 < a.toNat ∨ 99 < b.toNat) := fun hab => h (.inr (.inr ⟨a, b, sep, rfl, hab⟩))
    exact ⟨_, exec_clock_in_range (by omega) sep s, rfl, rfl, _, rfl⟩
  | reserved bits => exact absurd (.inl ⟨bits, rfl⟩) h
  | _ => exact ⟨_, rfl, rfl, rfl, _, rfl⟩

/-- Settles O33: by whether the request is one of the listed ones. -/
theorem faultsAreExactAndPrecise : Obligations.FaultsAreExactAndPrecise := by
  intro i s
  by_cases h : IsFaulting i
  · obtain ⟨c, hc, hexec⟩ := exec_of_isFaulting h s
    exact ⟨_, hexec, fun _ => ⟨c, hc, rfl⟩, fun hn => absurd h hn⟩
  · obtain ⟨t, ht, hok⟩ := exec_of_not_isFaulting h s
    exact ⟨t, ht, fun hf => absurd hf h, fun _ => hok⟩

/-! ## The edges -/

/-- A word that decoding rejects takes the fault entry RESERVED_BITS (R222). -/
theorem serve_rejected {w : Word} (h : decode w = .error .reservedBits) (s : State) :
    serve w s = .next (s.raise .reservedBits) := by
  simp [serve, h]

/-- Settles O38: the edge is the request's transfer, and the word takes the fault entry. -/
theorem stepOnReservedBitsTakesTheFaultEntry : Obligations.StepOnReservedBitsTakesTheFaultEntry := by
  intro s w hidle hr hv hw hdec
  calc step s = serve w s.passEdge.accept := step_idle hidle hr hv hw
    _ = .next (s.passEdge.accept.raise .reservedBits) := serve_rejected hdec _

/-- A `tx` transfer with the head of TXQ written out (R232). -/
theorem takeTx_of_cons {s : State} {e : TxEvent} {q : List TxEvent} (h : s.txq = e :: q) :
    s.takeTx = { s with txq := q, txlog := s.txlog ++ [e] } := by
  simp [State.takeTx, h]

/-- Settles O39: the edge is the transport's transfer, which moves the head of TXQ. -/
theorem transportTransferMovesOneEvent : Obligations.TransportTransferMovesOneEvent := by
  intro s e q hb hq hr ht
  have hne : s.passEdge.txq ≠ [] := hq ▸ List.cons_ne_nil e q
  calc step s = transfer s.nextEdge s.passEdge := step_busy hb hr
    _ = .next s.passEdge.takeTx := transfer_tx hne hr ht
    _ = .next { s.passEdge with txq := q, txlog := s.txlog ++ [e] } :=
      congrArg Host.Outcome.next (takeTx_of_cons (s := s.passEdge) hq)

/-- With no channel active there is no transfer (R232). -/
theorem transfer_of_no_channel {e : Edge} {s : State} (htx : ¬s.txValid e.rst = true) (hrsp : ¬s.rspValid e.rst = true)
    (hreq : ¬s.reqReady e.rst = true) : transfer e s = .next s := by
  simp [transfer, htx, hrsp, hreq]

/-- No channel of a faulted block with nothing pending is active (R228). -/
theorem transfer_of_faulted {e : Edge} {s : State} (hf : s.fault = true) (hq : s.txq = []) (hp : s.rsp = none) :
    transfer e s = .next s :=
  transfer_of_no_channel (by simp [txValid_iff, hq]) (by simp [rspValid_iff, hp]) (by simp [reqReady_iff, hf])

/-- Settles O44: nothing is pending while BUSY is 0, so a listed edge is passed without a transfer; with none left the
clock edge is the fault outcome. -/
theorem haltedBlockStopsUnlessReset : Obligations.HaltedBlockStopsUnlessReset := by
  intro s hinv hf hb hr
  obtain ⟨-, hpending, -⟩ := hinv
  obtain ⟨hq, hp⟩ := hpending hb
  have hhalted : s.halted = true := by simp [State.halted, hf, hb]
  refine ⟨fun hne => ?_, fun hnil => ?_⟩
  · calc step s = transfer s.nextEdge s.passEdge := by simp [step, clockEdge, hr, hne]
      _ = .next s.passEdge := transfer_of_faulted hf hq hp
  · simp [step, clockEdge, hr, hhalted, hnil]

end Machine
end Sys2Proof
end

section
/-! PROOFS. The obligations of 70_reset_and_hazards.md: the reset values, from any state and in the state after reset, and
the edges without a transfer, at which the block holds. -/

namespace Sys2Proof
namespace Machine

/-! ## Reset -/

/-- An edge with `rst` is the reset action and no transfer (R250). -/
theorem step_rst {s : State} (h : s.nextEdge.rst = true) : step s = .next s.passEdge.resetAction := by
  simp [step, clockEdge, h]

/-- Reset aborts a request in progress (R253). -/
theorem resetAction_idle (s : State) : s.resetAction.Idle := ⟨rfl, rfl, rfl, rfl⟩

/-- Reset clears every field of STATUS (R251). -/
@[simp] theorem resetAction_status (s : State) : s.resetAction.status = 0x00 := by simp [State.status, causeCode]

/-- Reset zeroes every byte of FB (R251). -/
theorem read_resetAction_fb (s : State) (a : Nat) : s.resetAction.fb.read a = 0x00 := read_cleared a

/-- The state after reset is a fixed point of the reset action, so what the action gives holds of it. -/
theorem resetAction_reset : State.reset.resetAction = State.reset := rfl

/-- Settles O42: the edge is the reset action, whose values do not depend on what is in progress. -/
theorem resetEdgeResetsTheBlock : Obligations.ResetEdgeResetsTheBlock := by
  intro s hr
  exact ⟨_, step_rst hr, read_resetAction_fb _, rfl, rfl, resetAction_status _, rfl, rfl, rfl, rfl, rfl, rfl, rfl,
    resetAction_idle _⟩

/-- Settles O47: `State.reset` is what the reset action leaves, and the installed configuration meets R9. -/
theorem resetStateKeepsTheInvariant : Obligations.ResetStateKeepsTheInvariant := by
  have hinv : State.reset.Inv := resetAction_reset ▸ inv_resetAction Config.installed.property
  exact ⟨hinv, resetAction_idle State.reset, read_resetAction_fb State.reset, reset_cursorX, reset_cursorY,
    resetAction_status State.reset, reset_txlog⟩

/-! ## Edges without a transfer -/

/-- Where no channel has both its valid and its ready bit set, and no word is accepted, there is no transfer (R232). -/
theorem transfer_of_no_handshake {e : Edge} {s : State} (htx : s.txValid e.rst = true → e.txReady = false)
    (hrsp : s.rspValid e.rst = true → e.rspReady = false) (hreq : s.reqReady e.rst = true → s.offered e = none) :
    transfer e s = .next s := by
  have htx' : ¬(s.txValid e.rst && e.txReady) = true := by simpa using htx
  have hrsp' : ¬(s.rspValid e.rst && e.rspReady) = true := by simpa using hrsp
  rw [transfer, if_neg htx', if_neg hrsp']
  by_cases hready : s.reqReady e.rst = true
  · rw [if_pos hready, hreq hready]
  · rw [if_neg hready]

/-- No request is accepted while BUSY is 1 (R26). -/
theorem reqReady_of_busy {s : State} (h : s.busy = true) (rst : Bool) : s.reqReady rst = false := by
  simp [State.reqReady, h]

/-- The host shows no word when it offers none or has none left (R21). -/
theorem offered_eq_none {e : Edge} {s : State} (h : e.reqValid = false ∨ s.requests = []) : s.offered e = none := by
  rcases h with hvalid | hempty
  · simp [State.offered, hvalid]
  · simp [State.offered, hempty]

/-- An event that the transport does not accept holds back the response, and BUSY every request (R236). -/
theorem transfer_of_tx_stalled {e : Edge} {s : State} (hb : s.busy = true) (hq : s.txq ≠ [])
    (ht : e.txReady = false) : transfer e s = .next s :=
  transfer_of_no_handshake (fun _ => ht) (by simp [rspValid_iff, hq]) (by simp [reqReady_of_busy hb])

/-- With no event pending, a host that does not take the response leaves nothing to transfer (R236). -/
theorem transfer_of_rsp_stalled {e : Edge} {s : State} (hb : s.busy = true) (hq : s.txq = [])
    (ht : e.rspReady = false) : transfer e s = .next s :=
  transfer_of_no_handshake (by simp [txValid_iff, hq]) (fun _ => ht) (by simp [reqReady_of_busy hb])

/-- An idle block with nothing offered has nothing to transfer (R262). -/
theorem transfer_of_idle {e : Edge} {s : State} (h : s.Idle) (hoff : s.offered e = none) :
    transfer e s = .next s := by
  obtain ⟨-, -, hq, hp⟩ := h
  exact transfer_of_no_handshake (by simp [txValid_iff, hq]) (by simp [rspValid_iff, hp]) fun _ => hoff

/-- An idle block is not halted, so an edge without `rst` is a transfer or nothing (R232). -/
theorem step_idle_eq_transfer {s : State} (h : s.Idle) (hr : s.nextEdge.rst = false) :
    step s = transfer s.nextEdge s.passEdge := by
  obtain ⟨-, hf, -⟩ := h
  simp [step, clockEdge, State.halted, hf, hr]

/-- Settles O41: each kind of hold is an edge at which no channel transfers, and the edge alone passes. -/
theorem blockHoldsWithoutATransfer : Obligations.BlockHoldsWithoutATransfer := by
  refine ⟨fun s hb hr hq ht => ?txStalled, fun s hb hr hq ht => ?rspStalled, fun s hidle hr hnone => ?nothingOffered⟩
  case txStalled =>
    calc step s = transfer s.nextEdge s.passEdge := step_busy hb hr
      _ = .next s.passEdge := transfer_of_tx_stalled hb hq ht
  case rspStalled =>
    calc step s = transfer s.nextEdge s.passEdge := step_busy hb hr
      _ = .next s.passEdge := transfer_of_rsp_stalled hb hq ht
  case nothingOffered =>
    have hidle' : s.passEdge.Idle := hidle
    calc step s = transfer s.nextEdge s.passEdge := step_idle_eq_transfer hidle hr
      _ = .next s.passEdge := transfer_of_idle hidle' (offered_eq_none hnone)

end Machine
end Sys2Proof
end
